-- ==== Sys2Proof/Word.lean ====
section
/-! DEFINITION. The word types of the SPI flash command controller (spec 00_scope.md R5 to R7, R12).
Every value is unsigned, bit 0 is the least significant bit (R12). -/

namespace Sys2Proof

/-- `W`, the transfer-register width: 40 bits (R5). -/
abbrev W : Nat := 40

/-- A value of a `W`-bit register: OUT, IN, `cmd_word`, `resp_word`, `res_value` (R5, R22, R25, R28). -/
abbrev XWord := BitVec 40

/-- A value of a 32-bit downstream register: CTRL, STATUS (R7). -/
abbrev RegWord := BitVec 32

/-- A flash opcode byte or a data byte (R6). -/
abbrev Byte := BitVec 8

/-- A flash address inside a command word (R6, R43). -/
abbrev FlashAddr := BitVec 24

/-- The operation selector OPSEL of a request (R29, R61). -/
abbrev OpSel := BitVec 4

/-- A transfer length `L`, in bits (R20, R23). -/
abbrev BitLen := BitVec 8

end Sys2Proof
end

