-- ==== Sys2Proof/Syntax.lean ====
section
/-! DEFINITION. Requests and operations (spec 30_encoding.md R61, R62, R72; opcode_table.json). The analogue of an
instruction is the operation a request selects (00_scope.md section 5, "Operation"). -/

namespace Sys2Proof

/-- The request signals of the upstream port (10_state.md R29), the one request format REQ (R61). -/
structure Request where
  op   : OpSel
  addr : BitVec 32
  data : BitVec 32
  len  : BitLen
  word : BitVec 64
deriving DecidableEq, Repr

/-- The four argument fields of REQ (R61). Every request carries all of them, whichever the operation uses (R65). -/
structure Args where
  /-- flash address argument -/
  addr : BitVec 32
  /-- data argument -/
  data : BitVec 32
  /-- TRANSFER bit length -/
  len  : BitLen
  /-- TRANSFER command word -/
  word : BitVec 64
deriving DecidableEq, Repr

/-- The arguments of a request that names none: absent fields are 0 (R72). -/
def Args.none : Args := ⟨0, 0, 0, 0⟩

/-- One constructor per row of opcode_table.json, in the table's order (R62, R63). Each carries the whole argument part of
the request, because acceptance latches every field as presented (R18 to R21, R76) and the request is all an operation is. -/
inductive Instr where
  | readId (a : Args)
  | writeEnable (a : Args)
  | writeDisable (a : Args)
  | readStatus (a : Args)
  | writeStatus (a : Args)
  | eraseSector (a : Args)
  | readSectorLock (a : Args)
  | writeSectorLock (a : Args)
  | readByte (a : Args)
  | writeByte (a : Args)
  | readNonvolatileConfig (a : Args)
  | writeNonvolatileConfig (a : Args)
  | bulkErase (a : Args)
  | transfer (a : Args)
  /-- OPSEL 0xE, reserved (R63) -/
  | reservedE (a : Args)
  /-- OPSEL 0xF, reserved (R63) -/
  | reservedF (a : Args)
deriving DecidableEq, Repr

end Sys2Proof
end

