-- ==== Sys2Proof/WellFormed.lean ====
section
/-! DEFINITION. Well-formed operations: the requests BUILD does not refuse. The ranges are 30_encoding.md R64's, written
as R64 writes them; a field an operation does not use is not checked (R65); no reserved selector is well formed (R63). -/

namespace Sys2Proof

/-- The legal range of an address argument (R18, R64). -/
abbrev Args.addrLegal (a : Args) : Prop := a.addr.toNat < 2 ^ 24
/-- The legal range of a one-byte data argument (R19, R64). -/
abbrev Args.byteLegal (a : Args) : Prop := a.data.toNat < 2 ^ 8
/-- The legal range of the non-volatile configuration value (R19, R64). -/
abbrev Args.halfLegal (a : Args) : Prop := a.data.toNat < 2 ^ 16
/-- The legal range of a TRANSFER length (R20, R64). -/
abbrev Args.lenLegal (a : Args) : Prop := a.len.toNat ≠ 0 ∧ a.len.toNat ≤ W
/-- The legal range of a TRANSFER word (R21, R64). -/
abbrev Args.wordLegal (a : Args) : Prop := a.word.toNat < 2 ^ W

/-- The requests that BUILD accepts (R63, R64). -/
def Instr.wf : Instr → Bool
  | .readId _ => true
  | .writeEnable _ => true
  | .writeDisable _ => true
  | .readStatus _ => true
  | .writeStatus a => decide a.byteLegal
  | .eraseSector a => decide a.addrLegal
  | .readSectorLock a => decide a.addrLegal
  | .writeSectorLock a => decide (a.addrLegal ∧ a.byteLegal)
  | .readByte a => decide a.addrLegal
  | .writeByte a => decide (a.addrLegal ∧ a.byteLegal)
  | .readNonvolatileConfig _ => true
  | .writeNonvolatileConfig a => decide a.halfLegal
  | .bulkErase _ => true
  | .transfer a => decide (a.lenLegal ∧ a.wordLegal)
  | .reservedE _ => false
  | .reservedF _ => false

end Sys2Proof
end

