-- ==== Sys2Proof/Decode.lean ====
section
/-! DEFINITION. The request encoding: REQ as a packed 140-bit word, the decoder and the encoder (spec 30_encoding.md
R61 to R63). Decoding is total: every 140-bit word is a request, and a number that is no 140-bit word is rejected by name. -/

namespace Sys2Proof

/-- The packed view of a request: op [3:0], addr [35:4], data [67:36], len [75:68], word [139:76] (R61). -/
def Request.pack (r : Request) : BitVec 140 :=
  (r.word ++ (r.len ++ (r.data ++ (r.addr ++ r.op)))).setWidth 140

/-- The request whose packed view is `w` (R61). -/
def Request.unpack (w : BitVec 140) : Request where
  op   := w.extractLsb' 0 4
  addr := w.extractLsb' 4 32
  data := w.extractLsb' 36 32
  len  := w.extractLsb' 68 8
  word := w.extractLsb' 76 64

/-- The argument fields of a request. -/
def Request.args (r : Request) : Args := ⟨r.addr, r.data, r.len, r.word⟩

/-- The request with selector `op` and arguments `a`. -/
def Args.request (a : Args) (op : OpSel) : Request := ⟨op, a.addr, a.data, a.len, a.word⟩

/-- The operation a request selects: the OPSEL map (R62), with the reserved selectors named (R63). -/
def decodeRequest (r : Request) : Instr :=
  match r.op.toNat with
  | 0x0 => .readId r.args
  | 0x1 => .writeEnable r.args
  | 0x2 => .writeDisable r.args
  | 0x3 => .readStatus r.args
  | 0x4 => .writeStatus r.args
  | 0x5 => .eraseSector r.args
  | 0x6 => .readSectorLock r.args
  | 0x7 => .writeSectorLock r.args
  | 0x8 => .readByte r.args
  | 0x9 => .writeByte r.args
  | 0xA => .readNonvolatileConfig r.args
  | 0xB => .writeNonvolatileConfig r.args
  | 0xC => .bulkErase r.args
  | 0xD => .transfer r.args
  | 0xE => .reservedE r.args
  | _   => .reservedF r.args

/-- Why a number is not a request. -/
inductive DecodeError where
  /-- The number does not fit the 140 bits of REQ (R61). -/
  | beyondReq
deriving DecidableEq, Repr

/-- The decoder, on a request's packed view as a number (R61). -/
def decode (w : Nat) : Except DecodeError Instr :=
  if w < 2 ^ 140 then .ok (decodeRequest (Request.unpack (BitVec.ofNat 140 w))) else .error .beyondReq

/-- The request an operation is: its selector by the OPSEL map (R62) and its arguments. -/
def encodeRequest : Instr → Request
  | .readId a => a.request 0x0
  | .writeEnable a => a.request 0x1
  | .writeDisable a => a.request 0x2
  | .readStatus a => a.request 0x3
  | .writeStatus a => a.request 0x4
  | .eraseSector a => a.request 0x5
  | .readSectorLock a => a.request 0x6
  | .writeSectorLock a => a.request 0x7
  | .readByte a => a.request 0x8
  | .writeByte a => a.request 0x9
  | .readNonvolatileConfig a => a.request 0xA
  | .writeNonvolatileConfig a => a.request 0xB
  | .bulkErase a => a.request 0xC
  | .transfer a => a.request 0xD
  | .reservedE a => a.request 0xE
  | .reservedF a => a.request 0xF

/-- The encoder: an operation's packed request (R61, R62). -/
def encode (i : Instr) : BitVec 140 := (encodeRequest i).pack

/-- The operation the decoder reads from a request whose low `nbits` bits are `w` and whose other bits are 0. -/
def decodeTableWord (nbits w : Nat) : Option Instr :=
  match decode (w % 2 ^ nbits) with
  | .ok i => some i
  | .error _ => none

end Sys2Proof
end

