-- ==== Sys2Proof/Config.lean ====
section
/-! DEFINITION. The parameters of the block: the OPEN ones as data that a machine carries (`Params`), with
values nothing in Lean can see (`Config.openParams`); the ones the spec decides, as constants; and the
reference configuration of the test vectors (spec 00_scope.md R5 to R11; 92_eei_decisions.md D4, D6, D7, D8,
D17, D24). -/

namespace Sys2Proof

/-- The OPEN parameters, fixed for a run (R8, R9, R11, R122). U8 treats them as arguments of the model. -/
structure Params where
  opcReadId       : Byte
  opcRead         : Byte
  opcWriteEnable  : Byte
  opcWriteDisable : Byte
  opcPageProgram  : Byte
  opcBulkErase    : Byte
  opcReadStatus   : Byte
  opcWriteStatus  : Byte
  opcReadNvcfg    : Byte
  opcWriteNvcfg   : Byte
  opcReadLock     : Byte
  opcWriteLock    : Byte
  /-- POLL_LIMIT, the greatest number of STATUS reads of one transaction (R8). -/
  pollLimit       : BitVec 32
  /-- REG_ADDR_OUT; the spec gives the four register addresses no width and no rule reads them (R11, D24). -/
  regAddrOut      : Nat
  /-- REG_ADDR_CTRL (R11). -/
  regAddrCtrl     : Nat
  /-- REG_ADDR_STATUS (R11). -/
  regAddrStatus   : Nat
  /-- REG_ADDR_IN (R11). -/
  regAddrIn       : Nat
deriving DecidableEq, Repr

/-- R8: `1 <= POLL_LIMIT <= 2^32 - 1`; the upper bound is the type's. -/
abbrev Params.wf (p : Params) : Prop := p.pollLimit ≠ 0

namespace Config

/-- OPC_SECTOR_ERASE, the one opcode the source fixes (R9). -/
def opcSectorErase : Byte := 0xD8

/-- CTRL_START_BIT (R10, D6). -/
def ctrlStartBit : Nat := 0
/-- CTRL_LEN_LSB (R10, D6). -/
def ctrlLenLsb : Nat := 8
/-- CTRL_LEN_BITS (R10, D6). -/
def ctrlLenBits : Nat := 8
/-- STATUS_DONE_BIT (R10, D7). -/
def statusDoneBit : Nat := 0

/-- D17's switch: with it true a run starts under the environment contract (`env_indeterminate` = 0). -/
def assumeEnvContract : Bool := true

/-! The OPEN values of the one machine that `State.reset` describes: no body, so no proof can see them (log entry 3). -/

opaque freeOpcReadId : Byte
opaque freeOpcRead : Byte
opaque freeOpcWriteEnable : Byte
opaque freeOpcWriteDisable : Byte
opaque freeOpcPageProgram : Byte
opaque freeOpcBulkErase : Byte
opaque freeOpcReadStatus : Byte
opaque freeOpcWriteStatus : Byte
opaque freeOpcReadNvcfg : Byte
opaque freeOpcWriteNvcfg : Byte
opaque freeOpcReadLock : Byte
opaque freeOpcWriteLock : Byte
/-- POLL_LIMIT less one: the whole range of R8 and nothing outside it. -/
opaque freePollLimitPred : Fin 4294967295
opaque freeRegAddrOut : Nat
opaque freeRegAddrCtrl : Nat
opaque freeRegAddrStatus : Nat
opaque freeRegAddrIn : Nat

/-- The parameters of the machine after reset: every OPEN value free, POLL_LIMIT within R8's range. -/
def openParams : Params where
  opcReadId       := freeOpcReadId
  opcRead         := freeOpcRead
  opcWriteEnable  := freeOpcWriteEnable
  opcWriteDisable := freeOpcWriteDisable
  opcPageProgram  := freeOpcPageProgram
  opcBulkErase    := freeOpcBulkErase
  opcReadStatus   := freeOpcReadStatus
  opcWriteStatus  := freeOpcWriteStatus
  opcReadNvcfg    := freeOpcReadNvcfg
  opcWriteNvcfg   := freeOpcWriteNvcfg
  opcReadLock     := freeOpcReadLock
  opcWriteLock    := freeOpcWriteLock
  pollLimit       := BitVec.ofNat 32 (freePollLimitPred.val + 1)
  regAddrOut      := freeRegAddrOut
  regAddrCtrl     := freeRegAddrCtrl
  regAddrStatus   := freeRegAddrStatus
  regAddrIn       := freeRegAddrIn

/-- The reference configuration RC of the test vectors (D4, GK1). PRESUMED: the spec marks its opcode values as
general knowledge, not facts of this hardware (log entry 16). Only tests use it. -/
def reference (pollLimit : BitVec 32) : Params where
  opcReadId       := 0x9F
  opcRead         := 0x03
  opcWriteEnable  := 0x06
  opcWriteDisable := 0x04
  opcPageProgram  := 0x02
  opcBulkErase    := 0xC7
  opcReadStatus   := 0x05
  opcWriteStatus  := 0x01
  opcReadNvcfg    := 0xB5
  opcWriteNvcfg   := 0xB1
  opcReadLock     := 0xE8
  opcWriteLock    := 0xE5
  pollLimit       := pollLimit
  regAddrOut      := 0
  regAddrCtrl     := 1
  regAddrStatus   := 2
  regAddrIn       := 3

end Config

end Sys2Proof
end

