-- ==== Sys2Proof/Machine/State.lean ====
section
/-! DEFINITION. The state of the block as plain data (spec 10_state.md R15 to R33), the environment's inputs to it, the
downstream access history (20_memory.md R37, R38), and the state after reset (70_reset_and_hazards.md R118, R123). -/

namespace Sys2Proof.Machine

/-- The controller state `fsm`, 3 bits (R16). All eight values are here, so that the refusal of 7 can be stated (R84). -/
inductive Fsm where
  | idle | build | wrOut | wrCtrl | poll | rdIn | extract
  /-- The value 7, which no rule writes (R16, R84). -/
  | unused7
deriving DecidableEq, Repr

/-- The encoding of `fsm` (R16). -/
def Fsm.code : Fsm → BitVec 3
  | .idle => 0
  | .build => 1
  | .wrOut => 2
  | .wrCtrl => 3
  | .poll => 4
  | .rdIn => 5
  | .extract => 6
  | .unused7 => 7

/-- The outcome code `res_status`, 2 bits (R27, R103). -/
inductive ResStatus where
  | ok | invalidArgument | deviceTimeout | transportError
deriving DecidableEq, Repr

/-- The encoding of `res_status` (R27, R103). -/
def ResStatus.code : ResStatus → BitVec 2
  | .ok => 0
  | .invalidArgument => 1
  | .deviceTimeout => 2
  | .transportError => 3

/-- The environment's answer to one downstream access (R37, R38). -/
inductive Answer where
  /-- `Err`: the transport failed. -/
  | err
  /-- `Ok`: an IN read returns `v`, a STATUS read its low 32 bits, and a write ignores it (log entry 6). -/
  | ok (v : XWord)
deriving DecidableEq, Repr

/-- What the outside world does to the block in one step: the signals of R29's port, the answer to the access of this step
if it comes (R87), and reset (R119). -/
structure EnvInput where
  /-- reset arrives in this step -/
  rst     : Bool
  /-- the request signals while `req_valid` = 1; none while `req_valid` = 0 -/
  request : Option Request
  /-- the environment's answer, none while it has not come -/
  answer  : Option Answer
deriving DecidableEq, Repr

/-- One event of the downstream access history `H`, with its answer (R37, R38). The four constructors are the four access
rights of R30: OUT and CTRL are only written, STATUS and IN only read, each as a whole register (R39). -/
inductive Event where
  /-- `W(OUT, v)`, answered Ok or Err -/
  | wOut (v : XWord) (acked : Bool)
  /-- `W(CTRL, v)`, answered Ok or Err -/
  | wCtrl (v : RegWord) (acked : Bool)
  /-- `R(STATUS) = v`, none for Err -/
  | rStatus (v : Option RegWord)
  /-- `R(IN) = v`, none for Err -/
  | rIn (v : Option XWord)
deriving DecidableEq, Repr

/-- The block's registers (R15 to R28), the model-only flag of R33, and three fields of the model itself: the parameters
(R15: configuration, fixed for a run), the inputs still to come, and the access history `H` (R37). -/
structure State where
  /-- the parameters of this machine (R5 to R11); no step writes them (R122) -/
  cfg      : Params
  /-- the environment's inputs, one per step, the next one first; past the end the environment is silent (log entry 2) -/
  inputs   : List EnvInput
  /-- `H`, oldest event first (R37, R38) -/
  history  : List Event
  /-- R16 -/
  fsm      : Fsm
  /-- R17 -/
  reqOp    : OpSel
  /-- R18 -/
  reqAddr  : BitVec 32
  /-- R19 -/
  reqData  : BitVec 32
  /-- R20 -/
  reqLen   : BitLen
  /-- R21 -/
  reqWord  : BitVec 64
  /-- R22 -/
  cmdWord  : XWord
  /-- R23 -/
  bitLen   : BitLen
  /-- R24 -/
  pollCnt  : BitVec 32
  /-- R25 -/
  respWord : XWord
  /-- R26 -/
  resValid : Bool
  /-- R27 -/
  resStatus : ResStatus
  /-- R28 -/
  resValue : XWord
  /-- `env_indeterminate` (R33), model only -/
  envIndeterminate : Bool
deriving DecidableEq, Repr

/-- The block never stops with a fault: its three errors are completions (R103, R108), and an unanswered access leaves it
waiting (R87). So there is no fault reason. -/
inductive Fault : Type
deriving DecidableEq, Repr

/-- Why a step has no meaning. -/
inductive Refusal where
  /-- Raised by exec for an operation that has no meaning yet. Safe: the model stops. -/
  | notModelled (mnemonic : String)
  /-- Raised by every step in the state `fsm` = 7, which the spec refuses (R16, R84, U5). Safe: the model stops. -/
  | unreachableFsm
deriving DecidableEq, Repr

/-- The machine right after reset, at the start of a run (R118, R120, R123): every register at the value its rule states,
`H` empty, no input yet, the parameters free, and `env_indeterminate` = 0 under D17's default. -/
def State.reset : State where
  cfg      := Config.openParams
  inputs   := []
  history  := []
  fsm      := .idle
  reqOp    := 0
  reqAddr  := 0
  reqData  := 0
  reqLen   := 0
  reqWord  := 0
  cmdWord  := 0
  bitLen   := 0
  pollCnt  := 0
  respWord := 0
  resValid := false
  resStatus := .ok
  resValue := 0
  envIndeterminate := !Config.assumeEnvContract

end Sys2Proof.Machine
end

