-- ==== Sys2Proof/Machine/Operands.lean ====
section
/-! DEFINITION. The operand forms: argument range checks, the six command-word formats, the control word and the result
extractions (spec 30_encoding.md R64, R66, R67, R69, R70). -/

namespace Sys2Proof.Machine

/-- What BUILD computes for a valid request: the word for OUT and the transfer length `L` (R22, R23). -/
structure CmdFrame where
  word : XWord
  len  : BitLen
deriving DecidableEq, Repr

/-- The address operand; none when `addr >= 2^24` (R64). -/
def addrArg (a : Args) : Option FlashAddr :=
  if a.addr.toNat < 2 ^ 24 then some (a.addr.setWidth 24) else none

/-- The one-byte data operand; none when `data >= 2^8` (R64). -/
def byteArg (a : Args) : Option Byte :=
  if a.data.toNat < 2 ^ 8 then some (a.data.setWidth 8) else none

/-- The two-byte data operand; none when `data >= 2^16` (R64). -/
def halfArg (a : Args) : Option (BitVec 16) :=
  if a.data.toNat < 2 ^ 16 then some (a.data.setWidth 16) else none

/-- CW8: the opcode alone (R67). -/
def cw8 (opc : Byte) : CmdFrame := ⟨opc.setWidth 40, 8⟩
/-- CW16: opcode [15:8], data slot [7:0] (R67). -/
def cw16 (opc d : Byte) : CmdFrame := ⟨(opc ++ d).setWidth 40, 16⟩
/-- CW24: opcode [23:16], data slot [15:0] (R67). -/
def cw24 (opc : Byte) (d : BitVec 16) : CmdFrame := ⟨(opc ++ d).setWidth 40, 24⟩
/-- CW32R: opcode [31:24], data slot [23:0] = 0 (R67). -/
def cw32R (opc : Byte) : CmdFrame := ⟨(opc ++ 0#24).setWidth 40, 32⟩
/-- CW32A: opcode [31:24], address [23:0] (R67). -/
def cw32A (opc : Byte) (a : FlashAddr) : CmdFrame := ⟨(opc ++ a).setWidth 40, 32⟩
/-- CW40: opcode [39:32], address [31:8], data slot [7:0] (R67). -/
def cw40 (opc : Byte) (a : FlashAddr) (d : Byte) : CmdFrame := ⟨(opc ++ (a ++ d)).setWidth 40, 40⟩

/-- The frame of a TRANSFER: the request's own word and length, refused outside R64's ranges (R68, R89). -/
def rawFrame (a : Args) : Option CmdFrame :=
  if a.len.toNat = 0 ∨ W < a.len.toNat ∨ 2 ^ W ≤ a.word.toNat then none else some ⟨a.word.setWidth 40, a.len⟩

/-- `CtrlWord(L)`: the length in the length field and the start flag (R31, R70). -/
def ctrlWord (l : BitLen) : RegWord :=
  (l.setWidth 32 <<< Config.ctrlLenLsb) ||| (1#32 <<< Config.ctrlStartBit)

/-- Extraction "low 8 bits" (R69). -/
def keepLow8 (v : XWord) : XWord := (v.extractLsb' 0 8).setWidth 40
/-- Extraction "low 16 bits" (R69). -/
def keepLow16 (v : XWord) : XWord := (v.extractLsb' 0 16).setWidth 40
/-- Extraction "low 24 bits" (R69). -/
def keepLow24 (v : XWord) : XWord := (v.extractLsb' 0 24).setWidth 40
/-- Extraction of TRANSFER: the whole of IN (R69). -/
def keepAll (v : XWord) : XWord := v
/-- Extraction "none": 0 (R69, U15). -/
def keepNone (_ : XWord) : XWord := 0

end Sys2Proof.Machine
end

