-- ==== Sys2Proof/Machine/Flags.lean ====
section
/-! DEFINITION. The status indications. The block has no condition codes (spec 10_state.md R35): the one flag it reads is the
SPI master's done flag (R32), and what it shows upstream are the outputs of R29. -/

namespace Sys2Proof.Machine

/-- The 32-bit value that an answer to a STATUS read carries (R38, R39). -/
def statusValue (v : XWord) : RegWord := v.setWidth 32

/-- The done flag of a STATUS value; every other bit is ignored (R32). -/
def doneFlag (v : RegWord) : Bool := v.getLsbD Config.statusDoneBit

/-- The outcomes that leave the environment indeterminate (R108). -/
def ResStatus.leavesIndeterminate : ResStatus → Bool
  | .ok => false
  | .invalidArgument => false
  | .deviceTimeout => true
  | .transportError => true

/-- `req_ready`: an offered request is accepted this step (R29). -/
def State.reqReady (s : State) : Bool := s.fsm = .idle

/-- `busy` (R29). -/
def State.busy (s : State) : Bool := s.fsm ≠ .idle

/-- The output signals of the upstream port (R29). -/
structure Outputs where
  reqReady  : Bool
  busy      : Bool
  resValid  : Bool
  resStatus : BitVec 2
  resValue  : XWord
deriving DecidableEq, Repr

/-- What the requester sees; no other register is visible upstream (R29, R34). -/
def State.outputs (s : State) : Outputs where
  reqReady  := s.reqReady
  busy      := s.busy
  resValid  := s.resValid
  resStatus := s.resStatus.code
  resValue  := s.resValue

end Sys2Proof.Machine
end

