-- ==== Sys2Proof/Machine/Ops.lean ====
section
/-! DEFINITION. The shared operations: sampling the environment, accepting a request, the two downstream access primitives
(spec 00_scope.md R13; 20_memory.md R37, R38), completion, which is the block's whole exception entry (60_exceptions.md
R108), and reset (70_reset_and_hazards.md R118, R119). -/

namespace Sys2Proof.Machine

/-- A step in which the environment does nothing. -/
def EnvInput.silent : EnvInput := ⟨false, none, none⟩

/-- The input of the present step; past the end of the list the environment is silent (log entry 2). -/
def State.input (s : State) : EnvInput := s.inputs.headD .silent

/-- One step of the environment has passed. -/
def State.tick (s : State) : State := { s with inputs := s.inputs.tail }

/-- The request being served, as the request registers hold it (R17 to R21). -/
def State.latched (s : State) : Request := ⟨s.reqOp, s.reqAddr, s.reqData, s.reqLen, s.reqWord⟩

/-- Acceptance (R76): latch the request and clear the previous result. This is also all there is of a return from an
error: the next acceptance clears it (R110). -/
def State.accept (s : State) (r : Request) : State :=
  { s with
    reqOp := r.op, reqAddr := r.addr, reqData := r.data, reqLen := r.len, reqWord := r.word
    resValid := false, resStatus := .ok, resValue := 0
    fsm := .build }

/-- Completion `Complete(st, val)` (R108). -/
def State.complete (s : State) (st : ResStatus) (val : XWord) : State :=
  { s with
    resStatus := st
    resValue := if st = .ok then val else 0
    resValid := true
    envIndeterminate := s.envIndeterminate || st.leavesIndeterminate
    fsm := .idle }

/-- `raise E`: the one exception entry, a completion that records no value (R103, R108). -/
def State.raise (s : State) (e : ResStatus) : State := s.complete e 0

/-- Append an event to `H` (R37, R38). -/
def State.log (s : State) (e : Event) : State := { s with history := s.history ++ [e] }

/-- `MemWrite` (R37): without an answer the block waits (R87); `Err` raises TransportError (R106). -/
def State.memWrite (s : State) (ev : Bool → Event) (onOk : State → State) : State :=
  match s.input.answer with
  | none => s
  | some .err => (s.log (ev false)).raise .transportError
  | some (.ok _) => onOk (s.log (ev true))

/-- `MemRead` (R38) of an `n`-bit register whose value `take` finds in the answer: without an answer the block waits (R87);
`Err` raises TransportError (R106). -/
def State.memRead (s : State) {n : Nat} (take : XWord → BitVec n) (ev : Option (BitVec n) → Event)
    (onOk : BitVec n → State → State) : State :=
  match s.input.answer with
  | none => s
  | some .err => (s.log (ev none)).raise .transportError
  | some (.ok v) => onOk (take v) (s.log (ev (some (take v))))

/-- Reset of the block (R118): every register to its reset value, no access. Reset in POLL leaves the environment
indeterminate (R119). The parameters, `H` and the inputs are no registers of the block. -/
def State.resetBlock (s : State) : State :=
  { s with
    fsm := .idle
    reqOp := 0, reqAddr := 0, reqData := 0, reqLen := 0, reqWord := 0
    cmdWord := 0, bitLen := 0, pollCnt := 0, respWord := 0
    resValid := false, resStatus := .ok, resValue := 0
    envIndeterminate := s.envIndeterminate || decide (s.fsm = .poll) }

end Sys2Proof.Machine
end

