-- ==== Sys2Proof/Machine/Controller.lean ====
section
/-! DEFINITION. The transaction controller: the step of each controller state (spec 40_transaction.md R76 to R84), shared by
all operations. An operation differs only in what BUILD computes and what EXTRACT keeps (R34). -/

namespace Sys2Proof.Machine

/-- BUILD (R78): `frame` is `Encode`'s answer, none for Invalid. -/
def State.buildStep (s : State) (frame : Option CmdFrame) : State :=
  match frame with
  | none => s.raise .invalidArgument
  | some f => { s with cmdWord := f.word, bitLen := f.len, fsm := .wrOut }

/-- WR_OUT (R79). -/
def State.wrOutStep (s : State) : State :=
  s.memWrite (Event.wOut s.cmdWord) fun t => { t with fsm := .wrCtrl }

/-- WR_CTRL (R80). -/
def State.wrCtrlStep (s : State) : State :=
  s.memWrite (Event.wCtrl (ctrlWord s.bitLen)) fun t => { t with pollCnt := 0, fsm := .poll }

/-- POLL (R81): the done test before the limit test. -/
def State.pollStep (s : State) : State :=
  s.memRead statusValue Event.rStatus fun v t =>
    if doneFlag v then { t with fsm := .rdIn }
    else if t.pollCnt + 1 = t.cfg.pollLimit then t.raise .deviceTimeout
    else { t with pollCnt := t.pollCnt + 1 }

/-- RD_IN (R82). -/
def State.rdInStep (s : State) : State :=
  s.memRead (fun v => v) Event.rIn fun v t => { t with respWord := v, fsm := .extract }

/-- EXTRACT (R83). -/
def State.extractStep (s : State) (keep : XWord → XWord) : State := s.complete .ok (keep s.respWord)

/-- One step of the block while request `r` is offered (in IDLE) or served (in the other states): `frame` is what its
operation builds, `keep` what it extracts. `fsm` = 7 has no step (R84). -/
def serve (r : Request) (frame : Option CmdFrame) (keep : XWord → XWord) (s : State) :
    Host.Outcome State Fault Refusal :=
  match s.fsm with
  | .idle => .next (s.accept r)
  | .build => .next (s.buildStep frame)
  | .wrOut => .next s.wrOutStep
  | .wrCtrl => .next s.wrCtrlStep
  | .poll => .next s.pollStep
  | .rdIn => .next s.rdInStep
  | .extract => .next (s.extractStep keep)
  | .unused7 => .refused .unreachableFsm

end Sys2Proof.Machine
end

