-- ==== Sys2Proof/Machine/Bare.lean ====
section
/-! DEFINITION. The bare commands, format CW8 (spec 41_flash_operations.md R91, R92, R102). -/

namespace Sys2Proof.Machine

/-- write_enable (R91). -/
def execWriteEnable (a : Args) (s : State) : Host.Outcome State Fault Refusal :=
  serve (encodeRequest (.writeEnable a)) (some (cw8 s.cfg.opcWriteEnable)) keepNone s

/-- write_disable (R92). -/
def execWriteDisable (a : Args) (s : State) : Host.Outcome State Fault Refusal :=
  serve (encodeRequest (.writeDisable a)) (some (cw8 s.cfg.opcWriteDisable)) keepNone s

/-- bulk_erase (R102). -/
def execBulkErase (a : Args) (s : State) : Host.Outcome State Fault Refusal :=
  serve (encodeRequest (.bulkErase a)) (some (cw8 s.cfg.opcBulkErase)) keepNone s

end Sys2Proof.Machine
end

