-- ==== Sys2Proof/Machine/ByteAccess.lean ====
section
/-! DEFINITION. The byte operations, format CW40 (spec 41_flash_operations.md R98, R99). -/

namespace Sys2Proof.Machine

/-- read_byte (R98): the §3 "read" opcode. -/
def execReadByte (a : Args) (s : State) : Host.Outcome State Fault Refusal :=
  serve (encodeRequest (.readByte a)) ((addrArg a).map (cw40 s.cfg.opcRead · 0)) keepLow8 s

/-- write_byte (R99): the §3 "page-program" opcode. -/
def execWriteByte (a : Args) (s : State) : Host.Outcome State Fault Refusal :=
  serve (encodeRequest (.writeByte a))
    ((addrArg a).bind fun ad => (byteArg a).map (cw40 s.cfg.opcPageProgram ad)) keepNone s

end Sys2Proof.Machine
end

