-- ==== Sys2Proof/Machine/Identify.lean ====
section
/-! DEFINITION. The identify operation, format CW32R (spec 41_flash_operations.md R90). -/

namespace Sys2Proof.Machine

/-- read_id (R90). -/
def execReadId (a : Args) (s : State) : Host.Outcome State Fault Refusal :=
  serve (encodeRequest (.readId a)) (some (cw32R s.cfg.opcReadId)) keepLow24 s

end Sys2Proof.Machine
end

