-- ==== Sys2Proof/Machine/NvConfig.lean ====
section
/-! DEFINITION. The non-volatile configuration operations, format CW24 (spec 41_flash_operations.md R100, R101). -/

namespace Sys2Proof.Machine

/-- read_nonvolatile_config (R100). -/
def execReadNonvolatileConfig (a : Args) (s : State) : Host.Outcome State Fault Refusal :=
  serve (encodeRequest (.readNonvolatileConfig a)) (some (cw24 s.cfg.opcReadNvcfg 0)) keepLow16 s

/-- write_nonvolatile_config (R101; 90_conflicts.md C5: a 16-bit value). -/
def execWriteNonvolatileConfig (a : Args) (s : State) : Host.Outcome State Fault Refusal :=
  serve (encodeRequest (.writeNonvolatileConfig a)) ((halfArg a).map (cw24 s.cfg.opcWriteNvcfg)) keepNone s

end Sys2Proof.Machine
end

