-- ==== Sys2Proof/Machine/Sector.lean ====
section
/-! DEFINITION. The sector operations: erase, format CW32A, and the sector locks, format CW40 (spec 41_flash_operations.md
R95 to R97). -/

namespace Sys2Proof.Machine

/-- erase_sector (R95). -/
def execEraseSector (a : Args) (s : State) : Host.Outcome State Fault Refusal :=
  serve (encodeRequest (.eraseSector a)) ((addrArg a).map (cw32A Config.opcSectorErase)) keepNone s

/-- read_sector_lock (R96). -/
def execReadSectorLock (a : Args) (s : State) : Host.Outcome State Fault Refusal :=
  serve (encodeRequest (.readSectorLock a)) ((addrArg a).map (cw40 s.cfg.opcReadLock · 0)) keepLow8 s

/-- write_sector_lock (R97). -/
def execWriteSectorLock (a : Args) (s : State) : Host.Outcome State Fault Refusal :=
  serve (encodeRequest (.writeSectorLock a))
    ((addrArg a).bind fun ad => (byteArg a).map (cw40 s.cfg.opcWriteLock ad)) keepNone s

end Sys2Proof.Machine
end

