-- ==== Sys2Proof/Machine/StatusReg.lean ====
section
/-! DEFINITION. The flash status register operations, format CW16 (spec 41_flash_operations.md R93, R94). -/

namespace Sys2Proof.Machine

/-- read_status (R93): the data slot is zero whatever the request's data field (R65). -/
def execReadStatus (a : Args) (s : State) : Host.Outcome State Fault Refusal :=
  serve (encodeRequest (.readStatus a)) (some (cw16 s.cfg.opcReadStatus 0)) keepLow8 s

/-- write_status (R94). -/
def execWriteStatus (a : Args) (s : State) : Host.Outcome State Fault Refusal :=
  serve (encodeRequest (.writeStatus a)) ((byteArg a).map (cw16 s.cfg.opcWriteStatus)) keepNone s

end Sys2Proof.Machine
end

