-- ==== Sys2Proof/Machine/Transfer.lean ====
section
/-! DEFINITION. The bare transfer and the reserved selectors (spec 40_transaction.md R89; 30_encoding.md R63). -/

namespace Sys2Proof.Machine

/-- transfer (R89). -/
def execTransfer (a : Args) (s : State) : Host.Outcome State Fault Refusal :=
  serve (encodeRequest (.transfer a)) (rawFrame a) keepAll s

/-- OPSEL 0xE (R63): no frame, so BUILD completes with InvalidArgument; EXTRACT keeps nothing (R69 "otherwise"). -/
def execReservedE (a : Args) (s : State) : Host.Outcome State Fault Refusal :=
  serve (encodeRequest (.reservedE a)) none keepNone s

/-- OPSEL 0xF (R63), as 0xE. -/
def execReservedF (a : Args) (s : State) : Host.Outcome State Fault Refusal :=
  serve (encodeRequest (.reservedF a)) none keepNone s

end Sys2Proof.Machine
end

