-- ==== Sys2Proof/Machine/Dispatch.lean ====
section
/-! DEFINITION. One arm per operation of opcode_table.json. -/

namespace Sys2Proof.Machine

/-- One step of the block while operation `i` is offered (in IDLE) or served (in the other states). -/
def exec (i : Instr) (s : State) : Host.Outcome State Fault Refusal :=
  match i with
  | .readId a => Sys2Proof.Machine.execReadId a s
  | .writeEnable a => Sys2Proof.Machine.execWriteEnable a s
  | .writeDisable a => Sys2Proof.Machine.execWriteDisable a s
  | .readStatus a => Sys2Proof.Machine.execReadStatus a s
  | .writeStatus a => Sys2Proof.Machine.execWriteStatus a s
  | .eraseSector a => Sys2Proof.Machine.execEraseSector a s
  | .readSectorLock a => Sys2Proof.Machine.execReadSectorLock a s
  | .writeSectorLock a => Sys2Proof.Machine.execWriteSectorLock a s
  | .readByte a => Sys2Proof.Machine.execReadByte a s
  | .writeByte a => Sys2Proof.Machine.execWriteByte a s
  | .readNonvolatileConfig a => Sys2Proof.Machine.execReadNonvolatileConfig a s
  | .writeNonvolatileConfig a => Sys2Proof.Machine.execWriteNonvolatileConfig a s
  | .bulkErase a => Sys2Proof.Machine.execBulkErase a s
  | .transfer a => Sys2Proof.Machine.execTransfer a s
  | .reservedE a => Sys2Proof.Machine.execReservedE a s
  | .reservedF a => Sys2Proof.Machine.execReservedF a s

end Sys2Proof.Machine
end

