-- ==== Sys2Proof/Machine/Fetch.lean ====
section
/-! DEFINITION. Where a step's request comes from (spec 40_transaction.md R75 to R77). The block fetches no instructions
(20_memory.md R60): it samples the upstream port in IDLE and serves the latched request in every other state. -/

namespace Sys2Proof.Machine

/-- The request of this step: in IDLE the one offered, if any (R75, R76); else the latched one, whatever is offered (R77). -/
def State.fetch (s : State) : Option Request :=
  match s.fsm with
  | .idle => s.input.request
  | _ => some s.latched

/-- `s` in IDLE with request `r` offered in the next input. -/
def State.offering (s : State) (r : Request) : State :=
  { s with fsm := .idle, inputs := { s.input with rst := false, request := some r } :: s.inputs.tail }

end Sys2Proof.Machine
end

