-- ==== Sys2Proof/Machine/Step.lean ====
section
/-! DEFINITION. The step of the block (spec 00_scope.md R14; 40_transaction.md R74 to R77, R84; 70_reset_and_hazards.md R119). -/

namespace Sys2Proof.Machine

/-- After a step that answers a next state, the environment's input of that step has passed. -/
def afterTick : Host.Outcome State Fault Refusal → Host.Outcome State Fault Refusal
  | .next t => .next t.tick
  | .fault f => .fault f
  | .refused r => .refused r

/-- One step: one transition of the controller (R14, R74). `fsm` = 7 is refused (R84); reset goes before everything else
(R119, log entry 4); in IDLE with no request nothing changes (R75); else the operation of the request at hand runs. -/
def step (s : State) : Host.Outcome State Fault Refusal :=
  match s.fsm with
  | .unused7 => .refused .unreachableFsm
  | _ =>
    if s.input.rst then .next s.resetBlock.tick
    else
      match s.fetch with
      | none => .next s.tick
      | some r => afterTick (exec (decodeRequest r) s)

/-- `s` with a request of `nbits` bits `w`, every bit above them 0, where the next step fetches: offered on the upstream
port in the next input, with the block ready for it and no reset (log entry 11). -/
def State.withFetchWord (s : State) (nbits w : Nat) : State := s.offering (Request.unpack (BitVec.ofNat 140 (w % 2 ^ nbits)))

end Sys2Proof.Machine
end

