-- ==== Sys2Proof/Machine/Environment.lean ====
section
/-! DEFINITION. The environment's side of the downstream port: what the wire carries and what IN captures (spec 20_memory.md
R49 to R51), what the SPI master's registers and transfers are after the accesses of a history (R37, R41, R50), and the
environment contract, which holds while `env_indeterminate` = 0 (R53 to R55). The step uses none of this: every answer is a
draw (R52). -/

namespace Sys2Proof.Machine

/-- The bits a transfer of length `l` sends after `w` was written to OUT: `w[l-1]` first, `w[0]` last (R50). -/
def sentBits (l : Nat) (w : XWord) : List Bool := (List.range l).map fun k => w.getLsbD (l - 1 - k)

/-- The number that a list of bits spells, the first the most significant (R49). -/
def bitsValue (bits : List Bool) : Nat := bits.foldl (fun n b => 2 * n + b.toNat) 0

/-- Bits received in a transfer of length `l` stand in IN (R51): `v` holds them in its low `l` bits, the first received in bit
`l - 1`; the bits above are free (U1). -/
def inboundContract (l : Nat) (bits : List Bool) (v : XWord) : Prop :=
  bits.length = l ∧ v.toNat % 2 ^ l = bitsValue bits

/-- The shape of the STATUS reads that R53 admits in one transaction: done clear some number of times, then set. -/
def doneContract (reads : List RegWord) : Bool := (reads.dropWhile fun v => !doneFlag v).all doneFlag

/-! ## What the accesses of a history did to the SPI master -/

/-- The length field of a CTRL value (R31). -/
def ctrlLenField (c : RegWord) : Nat := c.toNat / 2 ^ Config.ctrlLenLsb % 2 ^ Config.ctrlLenBits

/-- The start flag of a CTRL value (R31). -/
def ctrlStartFlag (c : RegWord) : Bool := c.getLsbD Config.ctrlStartBit

/-- A transfer that a CTRL write started (R41). -/
structure SpiTransfer where
  /-- its length `L`, from the CTRL value (R31) -/
  len  : Nat
  /-- the word that OUT held when it was started; none if that is not known (U9, U13) -/
  word : Option XWord
deriving DecidableEq, Repr

/-- The bits a transfer sends: those of the word that stood in OUT when it was started (R50). What the SPI master does with a
start or an OUT write while a transfer runs is not given (U12); that arises only with `env_indeterminate` = 1. -/
def SpiTransfer.sent (x : SpiTransfer) : Option (List Bool) := x.word.map (sentBits x.len)

/-- What is known of the SPI master after the accesses of a history. -/
structure Wire where
  /-- what OUT holds: the value last written; none before any write and after an `Err` (R37, U9, U13) -/
  out     : Option XWord
  /-- the value last written to CTRL, as `out`. It is not what CTRL holds later: whether the start flag clears itself is not in
  the source (91_not_in_source.md N3) -/
  ctrl    : Option RegWord
  /-- the transfers known to have been started, oldest first (R41) -/
  started : List SpiTransfer
  /-- the STATUS reads that returned a value since the last start -/
  polls   : Nat
  /-- the last of these reads returned the done flag set -/
  done    : Bool
deriving DecidableEq, Repr

/-- Before any access nothing is known of OUT and CTRL (U9), and no transfer is in flight (R123). -/
def Wire.atStart : Wire := ⟨none, none, [], 0, false⟩

/-- One access: a write of OUT only stores, a write of CTRL with the start flag starts a transfer with the word that OUT holds
at that time, and reads change no register and no transfer (R41). -/
def Wire.after (x : Wire) : Event → Wire
  | .wOut v true => { x with out := some v }
  | .wOut _ false => { x with out := none }
  | .wCtrl c true =>
    if ctrlStartFlag c then
      { x with ctrl := some c, started := x.started ++ [⟨ctrlLenField c, x.out⟩], polls := 0, done := false }
    else { x with ctrl := some c }
  | .wCtrl _ false => { x with ctrl := none }
  | .rStatus (some v) => { x with polls := x.polls + 1, done := doneFlag v }
  | .rStatus none => x
  | .rIn _ => x

/-- What is known of the SPI master after the accesses of `h`, in their order (R56). -/
def wireOf (h : List Event) : Wire := h.foldl Wire.after .atStart

/-! ## The environment contract -/

/-- What the environment draws for one transfer (R53, R54). -/
structure TransferDraw where
  /-- `k`, the STATUS reads that return done clear before the flag is set; none is the stuck device, `k` infinite (U6) -/
  clearReads : Option Nat
  /-- the bits the flash device sends during the transfer, the first first (U11) -/
  received   : List Bool
deriving DecidableEq, Repr

/-- Whether the transfer shows its end to a STATUS read that `n` reads since its start precede (R53). -/
def TransferDraw.over (d : TransferDraw) (n : Nat) : Bool :=
  match d.clearReads with
  | none => false
  | some k => decide (k ≤ n)

/-- The draw of the transfer last started: the `n`-th of the run has the `n`-th draw. It belongs to that one transfer, so no
transfer's end is reported as another's (R53, R127). -/
def State.draw (draws : Nat → TransferDraw) (s : State) : TransferDraw := draws (wireOf s.history).started.length

/-- The answer of this step's STATUS read is as R53 says: the done flag shows the end of the transfer last started and of no
earlier one. -/
def State.doneAsContracted (draws : Nat → TransferDraw) (s : State) : Prop :=
  ∀ v, s.fsm = .poll → s.input.answer = some (.ok v) →
    doneFlag (statusValue v) = (s.draw draws).over (wireOf s.history).polls

/-- The answer of this step's IN read is as R54 says: after a done flag read set, its low bits are the bits the device sent
during the transfer last started, of that transfer's length. -/
def State.inboundAsContracted (draws : Nat → TransferDraw) (s : State) : Prop :=
  ∀ v x, s.fsm = .rdIn → s.input.answer = some (.ok v) → (wireOf s.history).done = true →
    (wireOf s.history).started.getLast? = some x → inboundContract x.len (s.draw draws).received v

/-- The environment contract for one step (R53, R54), under no condition once `env_indeterminate` = 1 (R55). -/
def State.meetsContract (draws : Nat → TransferDraw) (s : State) : Prop :=
  s.envIndeterminate = false → s.doneAsContracted draws ∧ s.inboundAsContracted draws

end Sys2Proof.Machine
end

