-- ==== Sys2Proof/Safety.lean ====
section
/-! DEFINITION. The terms the statements use: the spec's own tables in plain numbers (`refEncode`, `refExtract`), what each
operation uses and places in its command word, and the invariant of the block. The machine does not use this file. -/

namespace Sys2Proof

/-- The request with every field the operation does not use set to 0 (R65; the rows' "ignored_fields"). -/
def Instr.usedOnly : Instr → Instr
  | .readId _ => .readId Args.none
  | .writeEnable _ => .writeEnable Args.none
  | .writeDisable _ => .writeDisable Args.none
  | .readStatus _ => .readStatus Args.none
  | .writeStatus a => .writeStatus { Args.none with data := a.data }
  | .eraseSector a => .eraseSector { Args.none with addr := a.addr }
  | .readSectorLock a => .readSectorLock { Args.none with addr := a.addr }
  | .writeSectorLock a => .writeSectorLock { Args.none with addr := a.addr, data := a.data }
  | .readByte a => .readByte { Args.none with addr := a.addr }
  | .writeByte a => .writeByte { Args.none with addr := a.addr, data := a.data }
  | .readNonvolatileConfig _ => .readNonvolatileConfig Args.none
  | .writeNonvolatileConfig a => .writeNonvolatileConfig { Args.none with data := a.data }
  | .bulkErase _ => .bulkErase Args.none
  | .transfer a => .transfer { Args.none with len := a.len, word := a.word }
  | .reservedE _ => .reservedE Args.none
  | .reservedF _ => .reservedF Args.none

/-- One catalogue operation's command word as R66 and R67 describe it: its opcode, its length `L`, its address if it has
one, and the value of its data slot. -/
structure Packing where
  opcode : Byte
  len    : Nat
  addr   : Option Nat
  data   : Nat
deriving DecidableEq, Repr

/-- The table of R67 with the opcodes of R62; none for TRANSFER and the reserved selectors, which have no format. -/
def Instr.packing (p : Params) : Instr → Option Packing
  | .readId _ => some ⟨p.opcReadId, 32, none, 0⟩
  | .writeEnable _ => some ⟨p.opcWriteEnable, 8, none, 0⟩
  | .writeDisable _ => some ⟨p.opcWriteDisable, 8, none, 0⟩
  | .readStatus _ => some ⟨p.opcReadStatus, 16, none, 0⟩
  | .writeStatus a => some ⟨p.opcWriteStatus, 16, none, a.data.toNat⟩
  | .eraseSector a => some ⟨0xD8, 32, some a.addr.toNat, 0⟩
  | .readSectorLock a => some ⟨p.opcReadLock, 40, some a.addr.toNat, 0⟩
  | .writeSectorLock a => some ⟨p.opcWriteLock, 40, some a.addr.toNat, a.data.toNat⟩
  | .readByte a => some ⟨p.opcRead, 40, some a.addr.toNat, 0⟩
  | .writeByte a => some ⟨p.opcPageProgram, 40, some a.addr.toNat, a.data.toNat⟩
  | .readNonvolatileConfig _ => some ⟨p.opcReadNvcfg, 24, none, 0⟩
  | .writeNonvolatileConfig a => some ⟨p.opcWriteNvcfg, 24, none, a.data.toNat⟩
  | .bulkErase _ => some ⟨p.opcBulkErase, 8, none, 0⟩
  | .transfer _ => none
  | .reservedE _ => none
  | .reservedF _ => none

/-- `Encode` as R68 writes it, on numbers; none for Invalid. -/
def refEncode (p : Params) (r : Request) : Option (Nat × Nat) :=
  let a := r.addr.toNat
  let d := r.data.toNat
  let n := r.len.toNat
  let w := r.word.toNat
  match r.op.toNat with
  | 0x0 => some (p.opcReadId.toNat <<< 24, 32)
  | 0x1 => some (p.opcWriteEnable.toNat, 8)
  | 0x2 => some (p.opcWriteDisable.toNat, 8)
  | 0x3 => some (p.opcReadStatus.toNat <<< 8, 16)
  | 0x4 => if d ≥ 2 ^ 8 then none else some ((p.opcWriteStatus.toNat <<< 8) ||| d, 16)
  | 0x5 => if a ≥ 2 ^ 24 then none else some ((0xD8 <<< 24) ||| a, 32)
  | 0x6 => if a ≥ 2 ^ 24 then none else some ((p.opcReadLock.toNat <<< 32) ||| (a <<< 8), 40)
  | 0x7 => if a ≥ 2 ^ 24 ∨ d ≥ 2 ^ 8 then none else some ((p.opcWriteLock.toNat <<< 32) ||| (a <<< 8) ||| d, 40)
  | 0x8 => if a ≥ 2 ^ 24 then none else some ((p.opcRead.toNat <<< 32) ||| (a <<< 8), 40)
  | 0x9 => if a ≥ 2 ^ 24 ∨ d ≥ 2 ^ 8 then none else some ((p.opcPageProgram.toNat <<< 32) ||| (a <<< 8) ||| d, 40)
  | 0xA => some (p.opcReadNvcfg.toNat <<< 16, 24)
  | 0xB => if d ≥ 2 ^ 16 then none else some ((p.opcWriteNvcfg.toNat <<< 16) ||| d, 24)
  | 0xC => some (p.opcBulkErase.toNat, 8)
  | 0xD => if n = 0 ∨ n > W ∨ w ≥ 2 ^ W then none else some (w, n)
  | _ => none

/-- `Extract` as R69 writes it, on numbers. -/
def refExtract (op : OpSel) (v : Nat) : Nat :=
  match op.toNat with
  | 0x0 => v % 2 ^ 24
  | 0x3 => v % 2 ^ 8
  | 0x6 => v % 2 ^ 8
  | 0x8 => v % 2 ^ 8
  | 0xA => v % 2 ^ 16
  | 0xD => v
  | _ => 0

/-- The number that a catalogue operation results in when its transfer received `bits` (R48, R51, R69): the device's bits
follow those of the command, 8 of them (opcode) or 32 (opcode and address). -/
def receivedValue (op : OpSel) (bits : List Bool) : Nat :=
  match op.toNat with
  | 0x0 => Machine.bitsValue (bits.drop 8)
  | 0x3 => Machine.bitsValue (bits.drop 8)
  | 0x6 => Machine.bitsValue (bits.drop 32)
  | 0x8 => Machine.bitsValue (bits.drop 32)
  | 0xA => Machine.bitsValue (bits.drop 8)
  | _ => 0

namespace Machine

/-- The states of a transaction whose BUILD has succeeded. -/
def Fsm.built : Fsm → Bool
  | .idle => false
  | .build => false
  | .wrOut => true
  | .wrCtrl => true
  | .poll => true
  | .rdIn => true
  | .extract => true
  | .unused7 => false

/-- The states that make a downstream access (R14, R74). -/
def Fsm.accessing : Fsm → Bool
  | .idle => false
  | .build => false
  | .wrOut => true
  | .wrCtrl => true
  | .poll => true
  | .rdIn => true
  | .extract => false
  | .unused7 => false

/-- The events of the two writes that open a transaction's accesses, once both are answered Ok (R79, R80). -/
def State.started (s : State) : List Event := [.wOut s.cmdWord true, .wCtrl (ctrlWord s.bitLen) true]

/-- STATUS reads that returned `vs`. -/
def statusReads (vs : List RegWord) : List Event := vs.map fun v => .rStatus (some v)

/-- `H` ends with exactly the accesses the present transaction has made (R42, R56, R85). -/
def State.accessesInOrder (s : State) : Prop :=
  match s.fsm with
  | .idle => True
  | .build => True
  | .wrOut => True
  | .wrCtrl => ∃ h : List Event, s.history = h ++ [.wOut s.cmdWord true]
  | .poll => ∃ (h : List Event) (vs : List RegWord),
      s.history = h ++ s.started ++ statusReads vs ∧
      vs.length = s.pollCnt.toNat ∧ ∀ v ∈ vs, doneFlag v = false
  | .rdIn => ∃ (h : List Event) (vs : List RegWord) (d : RegWord),
      s.history = h ++ s.started ++ statusReads vs ++ [.rStatus (some d)] ∧
      vs.length = s.pollCnt.toNat ∧ (∀ v ∈ vs, doneFlag v = false) ∧ doneFlag d = true
  | .extract => ∃ (h : List Event) (vs : List RegWord) (d : RegWord),
      s.history = h ++ s.started ++ statusReads vs ++ [.rStatus (some d), .rIn (some s.respWord)] ∧
      vs.length = s.pollCnt.toNat ∧ (∀ v ∈ vs, doneFlag v = false) ∧ doneFlag d = true
  | .unused7 => False

/-- The invariant of the block: what the rules say of every state a run can reach. -/
structure Inv (s : State) : Prop where
  /-- R8 -/
  cfgLegal : s.cfg.wf
  /-- R16, R84 -/
  fsmLegal : s.fsm ≠ .unused7
  /-- R24: 0 to POLL_LIMIT - 1 -/
  pollBelow : s.pollCnt.toNat < s.cfg.pollLimit.toNat
  /-- R23: at most `W` -/
  lenBelow : s.bitLen.toNat ≤ W
  /-- R22, R23, R68: after BUILD the command registers hold the encoding of the latched request -/
  encoded : s.fsm.built = true → refEncode s.cfg s.latched = some (s.cmdWord.toNat, s.bitLen.toNat)
  /-- R26, R76: no result is shown while a request is served -/
  busyUnanswered : s.fsm ≠ .idle → s.resValid = false
  /-- R26 to R28: the result registers are clear until a completion -/
  clearUntilValid : s.resValid = false → s.resStatus = .ok ∧ s.resValue = 0
  /-- R28: no value on an error -/
  errorValueZero : s.resStatus ≠ .ok → s.resValue = 0
  /-- R42, R56, R85 -/
  accesses : s.accessesInOrder

/-- The block after a completion with `st` and value `val` (R108), every register written out. -/
def State.ended (s : State) (st : ResStatus) (val : XWord) : State :=
  { s with
    resStatus := st
    resValue := val
    resValid := true
    envIndeterminate := s.envIndeterminate || (st = .deviceTimeout || st = .transportError)
    fsm := .idle }

/-- The block with request `r` latched (R76). -/
def State.latching (s : State) (r : Request) : State :=
  { s with reqOp := r.op, reqAddr := r.addr, reqData := r.data, reqLen := r.len, reqWord := r.word }

/-- The block with the command word `w` and the length `l` built (R78). -/
def State.building (s : State) (w l : Nat) : State :=
  { s with cmdWord := BitVec.ofNat 40 w, bitLen := BitVec.ofNat 8 l }

/-- In this step no reset arrives and the environment answers `Ok v`. -/
def EnvInput.answersOk (x : EnvInput) (v : XWord) : Prop := x.rst = false ∧ x.answer = some (.ok v)

/-- In this step no reset arrives and the environment answers `Err`. -/
def EnvInput.answersErr (x : EnvInput) : Prop := x.rst = false ∧ x.answer = some .err

/-- In this step no reset arrives, and an access, if the state makes one, is answered (R86). -/
def State.answered (s : State) : Prop := s.input.rst = false ∧ (s.fsm.accessing = true → s.input.answer ≠ none)

/-- In this step no reset arrives, and an access, if the state makes one, is answered `Ok`. -/
def State.answeredOk (s : State) : Prop :=
  s.input.rst = false ∧ (s.fsm.accessing = true → ∃ v, s.input.answer = some (.ok v))

/-- `P` holds of the state and of those after it in the first `n` steps, up to the first return to IDLE. -/
def untilIdle (P : State → Prop) : Nat → State → Prop
  | 0, _ => True
  | n + 1, s => P s ∧ ∀ t, step s = .next t → t.fsm ≠ .idle → untilIdle P n t

/-- In these steps no reset arrives and STATUS reads return `vs`, all with the done flag clear. -/
def pollsClear (xs : List EnvInput) (vs : List RegWord) : Prop :=
  List.Forall₂ (fun x v => ∃ a, x.answersOk a ∧ statusValue a = v) xs vs ∧ ∀ v ∈ vs, doneFlag v = false

end Machine

end Sys2Proof
end

