-- ==== Sys2Proof/Certificates/Slice0/Obligations.lean ====
section
/-! DEFINITION. The statements about the model, for the provers. Each docstring names the rule of spec/ it comes from. -/

open Sys2Proof Sys2Proof.Machine

/-! ## Encoding -/

/-- 30_encoding.md R61, R62: no bit of a request is lost, whatever the operation and its arguments. -/
def Obligations.DecodeOfEncodeIsIdentity : Prop :=
  ∀ i : Instr, decode (encode i).toNat = .ok i

/-- 30_encoding.md R61: every 140-bit word is exactly one operation's request. That a larger number is rejected by name is the
model's own choice (log entry 17, DESIGN CHOICE). -/
def Obligations.EncodeOfDecodeIsIdentity : Prop :=
  ∀ w : Nat, (w < 2 ^ 140 → ∃ i, decode w = .ok i ∧ (encode i).toNat = w) ∧
    (2 ^ 140 ≤ w → decode w = .error .beyondReq)

/-- 95_test_vectors.md part 3: packed requests of the spec's programs decode to the requests they stand for. -/
def Obligations.SpecRequestWordsDecode : Prop :=
  decode 0x00000000000000000000000000000010005 = .ok (.eraseSector { Args.none with addr := 0x001000 }) ∧
  decode 0x0000000000000000000000005A000010009 = .ok (.writeByte { Args.none with addr := 0x001000, data := 0x5A }) ∧
  decode 0x0000000000000000000000FFEF00000000B = .ok (.writeNonvolatileConfig { Args.none with data := 0xFFEF }) ∧
  decode 0x0000000000000006080000000000000000D = .ok (.transfer { Args.none with len := 8, word := 0x06 })

/-- 30_encoding.md R62, R63: the OPSEL map, row by row. -/
def Obligations.SelectorMapFollowsTable : Prop :=
  ∀ a : Args,
    decodeRequest (a.request 0x0) = .readId a ∧ decodeRequest (a.request 0x1) = .writeEnable a ∧
    decodeRequest (a.request 0x2) = .writeDisable a ∧ decodeRequest (a.request 0x3) = .readStatus a ∧
    decodeRequest (a.request 0x4) = .writeStatus a ∧ decodeRequest (a.request 0x5) = .eraseSector a ∧
    decodeRequest (a.request 0x6) = .readSectorLock a ∧ decodeRequest (a.request 0x7) = .writeSectorLock a ∧
    decodeRequest (a.request 0x8) = .readByte a ∧ decodeRequest (a.request 0x9) = .writeByte a ∧
    decodeRequest (a.request 0xA) = .readNonvolatileConfig a ∧
    decodeRequest (a.request 0xB) = .writeNonvolatileConfig a ∧
    decodeRequest (a.request 0xC) = .bulkErase a ∧ decodeRequest (a.request 0xD) = .transfer a ∧
    decodeRequest (a.request 0xE) = .reservedE a ∧ decodeRequest (a.request 0xF) = .reservedF a

/-! ## The step -/

/-- A step runs the operation that the request at hand decodes to (in IDLE the one offered, else the latched one): what
`exec` answers, with this step's input passed (R74 to R77). -/
def Obligations.StepRunsDecodedOperation : Prop :=
  ∀ (s : State) (w : BitVec 140) (i : Instr), decode w.toNat = .ok i → s.input.rst = false →
    ((s.fsm = .idle ∧ s.input.request = some (Request.unpack w)) ∨ (s.fsm ≠ .idle ∧ s.latched = Request.unpack w)) →
    (∀ t, exec i s = .next t → step s = .next { t with inputs := t.inputs.tail }) ∧
    (∀ f, exec i s = .refused f → step s = .refused f)

/-- The interface's fetch: the operation of a table word placed with `withFetchWord` is the one the next step runs. -/
def Obligations.FetchWordRunsNext : Prop :=
  ∀ (s : State) (nbits w : Nat) (i : Instr), decodeTableWord nbits w = some i →
    ∃ t, exec i (s.withFetchWord nbits w) = .next t ∧
      step (s.withFetchWord nbits w) = .next { t with inputs := t.inputs.tail }

/-- R75. -/
def Obligations.IdleWithoutRequestChangesNothing : Prop :=
  ∀ s : State, s.fsm = .idle → s.input.rst = false → s.input.request = none →
    step s = .next { s with inputs := s.inputs.tail }

/-- R76: for every operation, and for every request as a step samples it. -/
def Obligations.AcceptanceLatchesRequest : Prop :=
  (∀ (i : Instr) (s : State), s.fsm = .idle →
    exec i s = .next { s with
      reqOp := (encodeRequest i).op, reqAddr := (encodeRequest i).addr, reqData := (encodeRequest i).data
      reqLen := (encodeRequest i).len, reqWord := (encodeRequest i).word
      resValid := false, resStatus := .ok, resValue := 0, fsm := .build }) ∧
  (∀ (s : State) (r : Request), s.fsm = .idle → s.input.rst = false → s.input.request = some r →
    step s = .next { s with
      inputs := s.inputs.tail
      reqOp := r.op, reqAddr := r.addr, reqData := r.data, reqLen := r.len, reqWord := r.word
      resValid := false, resStatus := .ok, resValue := 0, fsm := .build })

/-- R77: what is offered while the block is busy changes nothing of what the step does. -/
def Obligations.BusyBlockIgnoresOffers : Prop :=
  ∀ s : State, s.fsm ≠ .idle → s.reqReady = false ∧
    ∀ q : Option Request, step { s with inputs := { s.input with request := q } :: s.inputs.tail } = step s

/-- R68, R78: BUILD is `Encode` of the latched request, as the rule's table gives it on numbers. -/
def Obligations.BuildFollowsEncodeTable : Prop :=
  ∀ s : State, s.fsm = .build → s.input.rst = false →
    (refEncode s.cfg s.latched = none →
      step s = .next { s with
        inputs := s.inputs.tail, resStatus := .invalidArgument, resValue := 0, resValid := true, fsm := .idle }) ∧
    (∀ w l : Nat, refEncode s.cfg s.latched = some (w, l) →
      w < 2 ^ W ∧ 1 ≤ l ∧ l ≤ W ∧
      step s = .next { s with
        inputs := s.inputs.tail, cmdWord := BitVec.ofNat 40 w, bitLen := BitVec.ofNat 8 l, fsm := .wrOut })

/-- R63, R64, R104: BUILD refuses exactly the requests with a reserved selector or a used field out of range, and a refused
request changes nothing but the result registers and the state. -/
def Obligations.BuildRefusesExactlyIllFormed : Prop :=
  ∀ (i : Instr) (s : State), s.fsm = .build →
    (i.wf = false → exec i s = .next { s with
      resStatus := .invalidArgument, resValue := 0, resValid := true, fsm := .idle }) ∧
    (i.wf = true → ∃ w l, exec i s = .next { s with cmdWord := w, bitLen := l, fsm := .wrOut })

/-- R65: fields an operation does not use affect nothing it does once accepted. -/
def Obligations.UnusedFieldsAffectNothing : Prop :=
  ∀ (i j : Instr) (s : State), i.usedOnly = j.usedOnly → s.fsm ≠ .idle → exec i s = exec j s

/-- R66, R67: the word of every catalogue operation is packed by the rule, in the format and length of its row. -/
def Obligations.CatalogueWordsArePacked : Prop :=
  ∀ (i : Instr) (s : State) (p : Packing), i.wf = true → i.packing s.cfg = some p → s.fsm = .build →
    ∃ (w : XWord) (l : BitLen), exec i s = .next { s with cmdWord := w, bitLen := l, fsm := .wrOut } ∧
      l.toNat = p.len ∧
      w.toNat = (p.opcode.toNat <<< (p.len - 8)) ||| (p.addr.elim 0 (· <<< (p.len - 32))) ||| p.data ∧
      w.toNat < 2 ^ p.len ∧
      w.toNat / 2 ^ (p.len - 8) = p.opcode.toNat ∧
      (p.addr = none → w.toNat % 2 ^ (p.len - 8) = p.data) ∧
      (∀ a, p.addr = some a → w.toNat / 2 ^ (p.len - 32) % 2 ^ 24 = a ∧ w.toNat % 2 ^ (p.len - 32) = p.data)

/-- R70: WR_CTRL writes the control word, with the values the rule gives. -/
def Obligations.ControlWordValues : Prop :=
  (∀ l : BitLen, (ctrlWord l).toNat = (l.toNat <<< 8) ||| 1) ∧
  ctrlWord 8 = 0x00000801 ∧ ctrlWord 16 = 0x00001001 ∧ ctrlWord 24 = 0x00001801 ∧
  ctrlWord 32 = 0x00002001 ∧ ctrlWord 40 = 0x00002801 ∧
  (∀ (i : Instr) (s : State), s.fsm = .wrCtrl → s.input.answer ≠ none →
    ∃ t acked, exec i s = .next t ∧ t.history = s.history ++ [.wCtrl (ctrlWord s.bitLen) acked])

/-- R31: whatever step writes CTRL, it writes the start flag set, `bit_len` in [15:8], and 0 elsewhere. -/
def Obligations.EveryCtrlWriteStartsTransfer : Prop :=
  ∀ (s t : State) (v : RegWord) (acked : Bool), step s = .next t → t.history = s.history ++ [.wCtrl v acked] →
    s.fsm = .wrCtrl ∧ v.getLsbD 0 = true ∧ v.extractLsb' 8 8 = s.bitLen ∧
      ∀ k : Nat, k ≠ 0 → ¬ (8 ≤ k ∧ k ≤ 15) → v.getLsbD k = false

/-- R79. -/
def Obligations.OutWriteStep : Prop :=
  ∀ (i : Instr) (s : State), s.fsm = .wrOut →
    (∀ v, s.input.answer = some (.ok v) →
      exec i s = .next { s with history := s.history ++ [.wOut s.cmdWord true], fsm := .wrCtrl }) ∧
    (s.input.answer = some .err →
      exec i s = .next (State.ended { s with history := s.history ++ [.wOut s.cmdWord false] } .transportError 0))

/-- R80. -/
def Obligations.CtrlWriteStep : Prop :=
  ∀ (i : Instr) (s : State), s.fsm = .wrCtrl →
    (∀ v, s.input.answer = some (.ok v) →
      exec i s = .next { s with
        history := s.history ++ [.wCtrl (ctrlWord s.bitLen) true], pollCnt := 0, fsm := .poll }) ∧
    (s.input.answer = some .err →
      exec i s = .next (State.ended { s with history := s.history ++ [.wCtrl (ctrlWord s.bitLen) false] } .transportError 0))

/-- R81: the done test before the limit test; in every state a run can reach the counter does not wrap. -/
def Obligations.StatusPollStep : Prop :=
  ∀ (i : Instr) (s : State), s.fsm = .poll →
    (∀ v : XWord, s.input.answer = some (.ok v) →
      ((v.setWidth 32).getLsbD 0 = true →
        exec i s = .next { s with history := s.history ++ [.rStatus (some (v.setWidth 32))], fsm := .rdIn }) ∧
      ((v.setWidth 32).getLsbD 0 = false → s.pollCnt + 1 = s.cfg.pollLimit →
        exec i s = .next (State.ended { s with history := s.history ++ [.rStatus (some (v.setWidth 32))] } .deviceTimeout 0)) ∧
      ((v.setWidth 32).getLsbD 0 = false → s.pollCnt + 1 ≠ s.cfg.pollLimit →
        exec i s = .next { s with
          history := s.history ++ [.rStatus (some (v.setWidth 32))], pollCnt := s.pollCnt + 1 })) ∧
    (s.input.answer = some .err →
      exec i s = .next (State.ended { s with history := s.history ++ [.rStatus none] } .transportError 0)) ∧
    (Inv s → (s.pollCnt + 1).toNat = s.pollCnt.toNat + 1 ∧ s.pollCnt.toNat + 1 ≤ s.cfg.pollLimit.toNat)

/-- R82. -/
def Obligations.InboundReadStep : Prop :=
  ∀ (i : Instr) (s : State), s.fsm = .rdIn →
    (∀ v, s.input.answer = some (.ok v) →
      exec i s = .next { s with history := s.history ++ [.rIn (some v)], respWord := v, fsm := .extract }) ∧
    (s.input.answer = some .err →
      exec i s = .next (State.ended { s with history := s.history ++ [.rIn none] } .transportError 0))

/-- R69, R83: EXTRACT completes OK with the rule's extraction of `resp_word`, whatever operation is served; in a run it is
never a reserved selector. -/
def Obligations.ExtractFollowsTable : Prop :=
  ∀ s : State, s.fsm = .extract → s.input.rst = false →
    step s = .next (State.ended { s with inputs := s.inputs.tail } .ok
      (BitVec.ofNat 40 (refExtract s.reqOp s.respWord.toNat))) ∧
    refExtract s.reqOp s.respWord.toNat < 2 ^ W ∧
    (Inv s → s.reqOp ≠ 0xE ∧ s.reqOp ≠ 0xF)

/-- R87, in the model's form (log entry 1): while its access is unanswered the block stays as it is. -/
def Obligations.UnansweredAccessWaits : Prop :=
  ∀ (i : Instr) (s : State), s.fsm.accessing = true → s.input.answer = none →
    exec i s = .next s ∧ (s.input.rst = false → step s = .next { s with inputs := s.inputs.tail })

/-- R14, R88: a step makes at most one access, only in the four access states, and only with its answer. -/
def Obligations.OneAccessAtATime : Prop :=
  ∀ s t : State, step s = .next t →
    t.history = s.history ∨
    ∃ e, t.history = s.history ++ [e] ∧ s.fsm.accessing = true ∧ s.input.rst = false ∧ s.input.answer ≠ none

/-! ## Errors and completion -/

/-- R108: every return to IDLE from a transaction, but by reset, is a completion: it writes what the rule says and nothing
else, the outcome names the state in which the transaction stopped, and no access of it follows. -/
def Obligations.EveryReturnToIdleCompletes : Prop :=
  ∀ s t : State, step s = .next t → s.input.rst = false → s.fsm ≠ .idle → t.fsm = .idle →
    t = { s with
      inputs := s.inputs.tail, history := t.history
      resStatus := t.resStatus, resValue := t.resValue, resValid := true
      envIndeterminate := s.envIndeterminate || (t.resStatus = .deviceTimeout || t.resStatus = .transportError)
      fsm := .idle } ∧
    (t.resStatus ≠ .ok → t.resValue = 0) ∧
    (t.resStatus = .ok → s.fsm = .extract ∧ t.resValue.toNat = refExtract s.reqOp s.respWord.toNat) ∧
    (t.resStatus = .invalidArgument → s.fsm = .build) ∧ (t.resStatus = .deviceTimeout → s.fsm = .poll) ∧
    (t.resStatus = .transportError → s.fsm.accessing = true) ∧
    (∀ u, step t = .next u → u.history = t.history)

/-- R103: the codes, for each outcome the state and the cause it arises from and the value recorded; the request stays in its
registers, and the port shows the outcome alone. -/
def Obligations.OutcomesAriseOnlyAsRuled : Prop :=
  ResStatus.ok.code = 0 ∧ ResStatus.invalidArgument.code = 1 ∧ ResStatus.deviceTimeout.code = 2 ∧
  ResStatus.transportError.code = 3 ∧
  ∀ s t : State, step s = .next t → s.input.rst = false → s.fsm ≠ .idle → t.fsm = .idle →
    (t.resStatus = .ok → s.fsm = .extract ∧ t.resValue.toNat = refExtract s.reqOp s.respWord.toNat) ∧
    (t.resStatus = .invalidArgument → s.fsm = .build ∧ refEncode s.cfg s.latched = none ∧ t.resValue = 0) ∧
    (t.resStatus = .deviceTimeout → s.fsm = .poll ∧ s.pollCnt + 1 = s.cfg.pollLimit ∧
      (∃ v, s.input.answer = some (.ok v) ∧ doneFlag (statusValue v) = false) ∧ t.resValue = 0) ∧
    (t.resStatus = .transportError → s.fsm.accessing = true ∧ s.input.answer = some .err ∧ t.resValue = 0) ∧
    t.latched = s.latched ∧ t.outputs = ⟨true, false, true, t.resStatus.code, t.resValue⟩

/-- R107: on the last poll that R81 allows, `Err` is TransportError and a done flag set is no timeout. -/
def Obligations.LastPollPriority : Prop :=
  ∀ (i : Instr) (s : State), s.fsm = .poll → s.pollCnt + 1 = s.cfg.pollLimit →
    (s.input.answer = some .err → ∃ t, exec i s = .next t ∧ t.resStatus = .transportError ∧ t.fsm = .idle) ∧
    (∀ v, s.input.answer = some (.ok v) → doneFlag (statusValue v) = true →
      ∃ t, exec i s = .next t ∧ t.fsm = .rdIn ∧ t.resStatus = s.resStatus)

/-- R33: `env_indeterminate` starts at 0, is set by exactly the causes the rule names, and is never cleared. -/
def Obligations.EnvIndeterminateSetExactly : Prop :=
  State.reset.envIndeterminate = false ∧
  ∀ s t : State, step s = .next t →
    (t.envIndeterminate = true ↔ s.envIndeterminate = true ∨ (s.input.rst = true ∧ s.fsm = .poll) ∨
      (s.input.rst = false ∧ s.fsm ≠ .idle ∧ t.fsm = .idle ∧
        (t.resStatus = .deviceTimeout ∨ t.resStatus = .transportError)))

/-- R26 to R28, R110, R128: the result registers change only at acceptance, at completion and at reset. -/
def Obligations.ResultHeldUntilNextAcceptance : Prop :=
  ∀ s t : State, step s = .next t → s.input.rst = false →
    ¬ (s.fsm = .idle ∧ s.input.request ≠ none) → ¬ (s.fsm ≠ .idle ∧ t.fsm = .idle) →
    t.resValid = s.resValid ∧ t.resStatus = s.resStatus ∧ t.resValue = s.resValue

/-- R71: what BUILD computes depends on the latched request and the parameters alone, what EXTRACT computes on the latched
request and `resp_word` alone, and the length of a catalogue operation on its selector alone. -/
def Obligations.EncodeAndExtractArePure : Prop :=
  ∀ s s' t t' : State, s.input.rst = false → s'.input.rst = false → step s = .next t → step s' = .next t' →
    (s.fsm = .build → s'.fsm = .build → s.latched = s'.latched → s.cfg = s'.cfg →
      t.fsm = t'.fsm ∧ (t.fsm = .wrOut → t.cmdWord = t'.cmdWord ∧ t.bitLen = t'.bitLen) ∧
      (t.fsm = .idle → t.resStatus = t'.resStatus)) ∧
    (s.fsm = .extract → s'.fsm = .extract → s.latched = s'.latched → s.respWord = s'.respWord →
      t.resValue = t'.resValue) ∧
    (s.fsm = .build → s'.fsm = .build → s.reqOp = s'.reqOp → s.reqOp ≠ 0xD → t.fsm = .wrOut → t'.fsm = .wrOut →
      t.bitLen = t'.bitLen)

/-- R29: the output signals. -/
def Obligations.OutputsShowResultAndBusy : Prop :=
  ∀ s : State, (s.outputs.reqReady = true ↔ s.fsm = .idle) ∧ (s.outputs.busy = true ↔ s.fsm ≠ .idle) ∧
    s.outputs.resValid = s.resValid ∧ s.outputs.resStatus = s.resStatus.code ∧ s.outputs.resValue = s.resValue

/-! ## Frames, configuration, reset -/

/-- R34: every operation writes the same registers in the same states, and no others (the access history grows by this
step's access at most; the parameters and the inputs are never written); operations differ only in what they latch, build
and extract; and no register is visible upstream but the result registers and `busy`. -/
def Obligations.OperationsWriteOnlyTheirRegisters : Prop :=
  (∀ (i : Instr) (s t : State), exec i s = .next t →
    (s.fsm = .idle → t = { s with
      reqOp := t.reqOp, reqAddr := t.reqAddr, reqData := t.reqData, reqLen := t.reqLen, reqWord := t.reqWord
      resValid := t.resValid, resStatus := t.resStatus, resValue := t.resValue, fsm := t.fsm }) ∧
    (s.fsm = .build →
      t = { s with cmdWord := t.cmdWord, bitLen := t.bitLen, fsm := t.fsm } ∨
      t = { s with resValid := t.resValid, resStatus := t.resStatus, resValue := t.resValue, fsm := .idle }) ∧
    (s.fsm = .wrOut → t = { s with history := t.history, fsm := t.fsm } ∨
      t = State.ended { s with history := t.history } .transportError 0) ∧
    (s.fsm = .wrCtrl → t = { s with history := t.history, pollCnt := t.pollCnt, fsm := t.fsm } ∨
      t = State.ended { s with history := t.history } .transportError 0) ∧
    (s.fsm = .poll → t = { s with history := t.history, pollCnt := t.pollCnt } ∨
      t = { s with history := t.history, fsm := .rdIn } ∨
      t = State.ended { s with history := t.history } .deviceTimeout 0 ∨
      t = State.ended { s with history := t.history } .transportError 0) ∧
    (s.fsm = .rdIn → t = { s with history := t.history, respWord := t.respWord, fsm := t.fsm } ∨
      t = State.ended { s with history := t.history } .transportError 0) ∧
    (s.fsm = .extract → t = { s with
      resValid := t.resValid, resStatus := t.resStatus, resValue := t.resValue, fsm := .idle }) ∧
    (t.history = s.history ∨ ∃ e, t.history = s.history ++ [e])) ∧
  (∀ (i j : Instr) (s : State), s.fsm.accessing = true → exec i s = exec j s) ∧
  (∀ s t : State, s.resValid = t.resValid → s.resStatus = t.resStatus → s.resValue = t.resValue → s.busy = t.busy →
    s.outputs = t.outputs)

/-- R122: the parameters are fixed for a run. -/
def Obligations.ParametersNeverChange : Prop :=
  ∀ s t : State, step s = .next t → t.cfg = s.cfg

/-- R16, R84: no step leads to `fsm` = 7, and that state is refused. -/
def Obligations.FsmSevenIsRefusedAndNeverWritten : Prop :=
  (∀ s : State, s.fsm = .unused7 → step s = .refused .unreachableFsm ∧ ∀ i, exec i s = .refused .unreachableFsm) ∧
  (∀ s t : State, step s = .next t → t.fsm ≠ .unused7) ∧
  (∀ (i : Instr) (s t : State), exec i s = .next t → t.fsm ≠ .unused7)

/-- R118, R119: reset in any state of a run. That a step in which reset arrives does nothing else is the model's inference (log
entry 4). -/
def Obligations.ResetSetsEveryRegister : Prop :=
  ∀ s : State, s.fsm ≠ .unused7 → s.input.rst = true →
    step s = .next {
      cfg := s.cfg, inputs := s.inputs.tail, history := s.history
      fsm := .idle, reqOp := 0, reqAddr := 0, reqData := 0, reqLen := 0, reqWord := 0
      cmdWord := 0, bitLen := 0, pollCnt := 0, respWord := 0
      resValid := false, resStatus := .ok, resValue := 0
      envIndeterminate := s.envIndeterminate || decide (s.fsm = .poll) }

/-- R118, R120, R123: the state after reset, for whatever parameters. The empty input list and the carrying of the parameters
are the model's own choice (log entries 2, 3 and 18). -/
def Obligations.StateAfterReset : Prop :=
  State.reset = {
    cfg := State.reset.cfg, inputs := [], history := []
    fsm := .idle, reqOp := 0, reqAddr := 0, reqData := 0, reqLen := 0, reqWord := 0
    cmdWord := 0, bitLen := 0, pollCnt := 0, respWord := 0
    resValid := false, resStatus := .ok, resValue := 0, envIndeterminate := false } ∧
  State.reset.reqReady = true ∧ State.reset.cfg.wf

/-- The invariant of the block holds at reset. -/
def Obligations.InvariantHoldsAtReset : Prop := Inv State.reset

/-- The invariant of the block (R8, R16, R22 to R24, R26 to R28, R42, R56) is kept by every step, from any state that has it. -/
def Obligations.InvariantKeptByEveryStep : Prop :=
  ∀ s t : State, Inv s → step s = .next t → Inv t

/-! ## Whole transactions (R85, R86) -/

/-- R85, row OK: with the done flag set on the STATUS read after `vs.length` clear ones, below POLL_LIMIT. -/
def Obligations.OkTransaction : Prop :=
  ∀ (s : State) (r : Request) (w l : Nat) (x₀ x₁ x₂ x₃ x₄ x₅ x₆ : EnvInput) (xs rest : List EnvInput)
    (vs : List RegWord) (a₂ a₃ d v : XWord),
    s.fsm = .idle → s.inputs = x₀ :: x₁ :: x₂ :: x₃ :: (xs ++ x₄ :: x₅ :: x₆ :: rest) →
    x₀.rst = false → x₀.request = some r → x₁.rst = false → x₂.answersOk a₂ → x₃.answersOk a₃ →
    pollsClear xs vs → vs.length < s.cfg.pollLimit.toNat →
    x₄.answersOk d → doneFlag (statusValue d) = true → x₅.answersOk v → x₆.rst = false →
    refEncode s.cfg r = some (w, l) →
    Sys2Proof.core.run (7 + vs.length) s = .next { ((s.latching r).building w l) with
      inputs := rest
      history := s.history ++ [.wOut (BitVec.ofNat 40 w) true, .wCtrl (ctrlWord (BitVec.ofNat 8 l)) true] ++
        statusReads vs ++ [.rStatus (some (statusValue d)), .rIn (some v)]
      pollCnt := BitVec.ofNat 32 vs.length
      respWord := v
      resValid := true, resStatus := .ok, resValue := BitVec.ofNat 40 (refExtract r.op v.toNat), fsm := .idle }

/-- R85, row DeviceTimeout: every one of POLL_LIMIT reads returns the done flag clear. -/
def Obligations.TimeoutTransaction : Prop :=
  ∀ (s : State) (r : Request) (w l : Nat) (x₀ x₁ x₂ x₃ : EnvInput) (xs rest : List EnvInput)
    (vs : List RegWord) (a₂ a₃ : XWord),
    s.fsm = .idle → s.inputs = x₀ :: x₁ :: x₂ :: x₃ :: (xs ++ rest) →
    x₀.rst = false → x₀.request = some r → x₁.rst = false → x₂.answersOk a₂ → x₃.answersOk a₃ →
    pollsClear xs vs → vs.length = s.cfg.pollLimit.toNat → s.cfg.wf →
    refEncode s.cfg r = some (w, l) →
    Sys2Proof.core.run (4 + vs.length) s = .next { ((s.latching r).building w l) with
      inputs := rest
      history := s.history ++ [.wOut (BitVec.ofNat 40 w) true, .wCtrl (ctrlWord (BitVec.ofNat 8 l)) true] ++ statusReads vs
      pollCnt := s.cfg.pollLimit - 1
      resValid := true, resStatus := .deviceTimeout, resValue := 0, envIndeterminate := true, fsm := .idle }

/-- R85, row InvalidArgument: two steps, no access, the command registers untouched. -/
def Obligations.InvalidArgumentTransaction : Prop :=
  ∀ (s : State) (r : Request) (x₀ x₁ : EnvInput) (rest : List EnvInput),
    s.fsm = .idle → s.inputs = x₀ :: x₁ :: rest → x₀.rst = false → x₀.request = some r → x₁.rst = false →
    refEncode s.cfg r = none →
    Sys2Proof.core.run 2 s = .next { (s.latching r) with
      inputs := rest, resValid := true, resStatus := .invalidArgument, resValue := 0, fsm := .idle }

/-- R85, row TransportError at OUT. -/
def Obligations.TransportErrorAtOut : Prop :=
  ∀ (s : State) (r : Request) (w l : Nat) (x₀ x₁ x₂ : EnvInput) (rest : List EnvInput),
    s.fsm = .idle → s.inputs = x₀ :: x₁ :: x₂ :: rest →
    x₀.rst = false → x₀.request = some r → x₁.rst = false → x₂.answersErr → refEncode s.cfg r = some (w, l) →
    Sys2Proof.core.run 3 s = .next { ((s.latching r).building w l) with
      inputs := rest, history := s.history ++ [.wOut (BitVec.ofNat 40 w) false]
      resValid := true, resStatus := .transportError, resValue := 0, envIndeterminate := true, fsm := .idle }

/-- R85, row TransportError at CTRL. -/
def Obligations.TransportErrorAtCtrl : Prop :=
  ∀ (s : State) (r : Request) (w l : Nat) (x₀ x₁ x₂ x₃ : EnvInput) (rest : List EnvInput) (a₂ : XWord),
    s.fsm = .idle → s.inputs = x₀ :: x₁ :: x₂ :: x₃ :: rest →
    x₀.rst = false → x₀.request = some r → x₁.rst = false → x₂.answersOk a₂ → x₃.answersErr →
    refEncode s.cfg r = some (w, l) →
    Sys2Proof.core.run 4 s = .next { ((s.latching r).building w l) with
      inputs := rest
      history := s.history ++ [.wOut (BitVec.ofNat 40 w) true, .wCtrl (ctrlWord (BitVec.ofNat 8 l)) false]
      resValid := true, resStatus := .transportError, resValue := 0, envIndeterminate := true, fsm := .idle }

/-- R85, row TransportError at poll `vs.length + 1`, the `POLL_LIMIT`-th among them. -/
def Obligations.TransportErrorAtPoll : Prop :=
  ∀ (s : State) (r : Request) (w l : Nat) (x₀ x₁ x₂ x₃ x₄ : EnvInput) (xs rest : List EnvInput)
    (vs : List RegWord) (a₂ a₃ : XWord),
    s.fsm = .idle → s.inputs = x₀ :: x₁ :: x₂ :: x₃ :: (xs ++ x₄ :: rest) →
    x₀.rst = false → x₀.request = some r → x₁.rst = false → x₂.answersOk a₂ → x₃.answersOk a₃ →
    pollsClear xs vs → vs.length < s.cfg.pollLimit.toNat → x₄.answersErr →
    refEncode s.cfg r = some (w, l) →
    Sys2Proof.core.run (4 + (vs.length + 1)) s = .next { ((s.latching r).building w l) with
      inputs := rest
      history := s.history ++ [.wOut (BitVec.ofNat 40 w) true, .wCtrl (ctrlWord (BitVec.ofNat 8 l)) true] ++
        statusReads vs ++ [.rStatus none]
      pollCnt := BitVec.ofNat 32 vs.length
      resValid := true, resStatus := .transportError, resValue := 0, envIndeterminate := true, fsm := .idle }

/-- R85, row TransportError at IN. -/
def Obligations.TransportErrorAtIn : Prop :=
  ∀ (s : State) (r : Request) (w l : Nat) (x₀ x₁ x₂ x₃ x₄ x₅ : EnvInput) (xs rest : List EnvInput)
    (vs : List RegWord) (a₂ a₃ d : XWord),
    s.fsm = .idle → s.inputs = x₀ :: x₁ :: x₂ :: x₃ :: (xs ++ x₄ :: x₅ :: rest) →
    x₀.rst = false → x₀.request = some r → x₁.rst = false → x₂.answersOk a₂ → x₃.answersOk a₃ →
    pollsClear xs vs → vs.length < s.cfg.pollLimit.toNat →
    x₄.answersOk d → doneFlag (statusValue d) = true → x₅.answersErr →
    refEncode s.cfg r = some (w, l) →
    Sys2Proof.core.run (6 + vs.length) s = .next { ((s.latching r).building w l) with
      inputs := rest
      history := s.history ++ [.wOut (BitVec.ofNat 40 w) true, .wCtrl (ctrlWord (BitVec.ofNat 8 l)) true] ++
        statusReads vs ++ [.rStatus (some (statusValue d)), .rIn none]
      pollCnt := BitVec.ofNat 32 vs.length
      resValid := true, resStatus := .transportError, resValue := 0, envIndeterminate := true, fsm := .idle }

/-- R86: an accepted request completes within 6 + POLL_LIMIT steps if until then every access it makes is answered and no reset
arrives. -/
def Obligations.EveryRequestCompletesInBound : Prop :=
  ∀ (s : State) (r : Request), s.fsm = .idle → s.cfg.wf → s.input.request = some r →
    untilIdle State.answered (6 + s.cfg.pollLimit.toNat) s →
    ∃ (n : Nat) (t : State), 1 ≤ n ∧ n ≤ 6 + s.cfg.pollLimit.toNat ∧ Sys2Proof.core.run n s = .next t ∧
      t.fsm = .idle ∧ t.resValid = true

/-! ## The operations: what each builds and what each results in (R89 to R102) -/

/-- R90: read_id is never refused, builds a 32-bit word with the opcode on top, and results in the low 24 bits. -/
def Obligations.ReadIdBuildsAndResults : Prop :=
  ∀ (a : Args) (s : State),
    (s.fsm = .build → exec (.readId a) s = .next { s with
      cmdWord := s.cfg.opcReadId.setWidth 40 <<< 24, bitLen := 32, fsm := .wrOut }) ∧
    (s.fsm = .extract → exec (.readId a) s = .next (s.ended .ok (s.respWord &&& 0xFFFFFF)))

/-- R91, R92, R102: the bare commands are never refused, build the opcode alone, 8 bits, and result in 0. -/
def Obligations.BareCommandsBuildAndResult : Prop :=
  ∀ (a : Args) (s : State),
    (s.fsm = .build →
      exec (.writeEnable a) s = .next { s with
        cmdWord := s.cfg.opcWriteEnable.setWidth 40, bitLen := 8, fsm := .wrOut } ∧
      exec (.writeDisable a) s = .next { s with
        cmdWord := s.cfg.opcWriteDisable.setWidth 40, bitLen := 8, fsm := .wrOut } ∧
      exec (.bulkErase a) s = .next { s with
        cmdWord := s.cfg.opcBulkErase.setWidth 40, bitLen := 8, fsm := .wrOut }) ∧
    (s.fsm = .extract →
      exec (.writeEnable a) s = .next (s.ended .ok 0) ∧ exec (.writeDisable a) s = .next (s.ended .ok 0) ∧
      exec (.bulkErase a) s = .next (s.ended .ok 0))

/-- R93, R94: the status register operations, 16 bits. -/
def Obligations.StatusOperationsBuildAndResult : Prop :=
  ∀ (a : Args) (s : State),
    (s.fsm = .build → exec (.readStatus a) s = .next { s with
      cmdWord := s.cfg.opcReadStatus.setWidth 40 <<< 8, bitLen := 16, fsm := .wrOut }) ∧
    (s.fsm = .build → a.data.toNat < 2 ^ 8 → exec (.writeStatus a) s = .next { s with
      cmdWord := (s.cfg.opcWriteStatus.setWidth 40 <<< 8) ||| a.data.setWidth 40, bitLen := 16, fsm := .wrOut }) ∧
    (s.fsm = .build → 2 ^ 8 ≤ a.data.toNat → exec (.writeStatus a) s = .next (s.ended .invalidArgument 0)) ∧
    (s.fsm = .extract → exec (.readStatus a) s = .next (s.ended .ok (s.respWord &&& 0xFF)) ∧
      exec (.writeStatus a) s = .next (s.ended .ok 0))

/-- R95: erase_sector, 32 bits, with the source's opcode 0xD8. -/
def Obligations.EraseSectorBuildsAndResults : Prop :=
  ∀ (a : Args) (s : State),
    (s.fsm = .build → a.addr.toNat < 2 ^ 24 → exec (.eraseSector a) s = .next { s with
      cmdWord := ((0xD8 : XWord) <<< 24) ||| a.addr.setWidth 40, bitLen := 32, fsm := .wrOut }) ∧
    (s.fsm = .build → 2 ^ 24 ≤ a.addr.toNat → exec (.eraseSector a) s = .next (s.ended .invalidArgument 0)) ∧
    (s.fsm = .extract → exec (.eraseSector a) s = .next (s.ended .ok 0))

/-- R96, R97: the sector-lock operations, 40 bits. -/
def Obligations.SectorLockOperationsBuildAndResult : Prop :=
  ∀ (a : Args) (s : State),
    (s.fsm = .build → a.addr.toNat < 2 ^ 24 → exec (.readSectorLock a) s = .next { s with
      cmdWord := (s.cfg.opcReadLock.setWidth 40 <<< 32) ||| (a.addr.setWidth 40 <<< 8), bitLen := 40, fsm := .wrOut }) ∧
    (s.fsm = .build → 2 ^ 24 ≤ a.addr.toNat → exec (.readSectorLock a) s = .next (s.ended .invalidArgument 0)) ∧
    (s.fsm = .build → a.addr.toNat < 2 ^ 24 → a.data.toNat < 2 ^ 8 → exec (.writeSectorLock a) s = .next { s with
      cmdWord := (s.cfg.opcWriteLock.setWidth 40 <<< 32) ||| (a.addr.setWidth 40 <<< 8) ||| a.data.setWidth 40
      bitLen := 40, fsm := .wrOut }) ∧
    (s.fsm = .build → 2 ^ 24 ≤ a.addr.toNat ∨ 2 ^ 8 ≤ a.data.toNat →
      exec (.writeSectorLock a) s = .next (s.ended .invalidArgument 0)) ∧
    (s.fsm = .extract → exec (.readSectorLock a) s = .next (s.ended .ok (s.respWord &&& 0xFF)) ∧
      exec (.writeSectorLock a) s = .next (s.ended .ok 0))

/-- R98, R99: the byte operations, 40 bits. -/
def Obligations.ByteOperationsBuildAndResult : Prop :=
  ∀ (a : Args) (s : State),
    (s.fsm = .build → a.addr.toNat < 2 ^ 24 → exec (.readByte a) s = .next { s with
      cmdWord := (s.cfg.opcRead.setWidth 40 <<< 32) ||| (a.addr.setWidth 40 <<< 8), bitLen := 40, fsm := .wrOut }) ∧
    (s.fsm = .build → 2 ^ 24 ≤ a.addr.toNat → exec (.readByte a) s = .next (s.ended .invalidArgument 0)) ∧
    (s.fsm = .build → a.addr.toNat < 2 ^ 24 → a.data.toNat < 2 ^ 8 → exec (.writeByte a) s = .next { s with
      cmdWord := (s.cfg.opcPageProgram.setWidth 40 <<< 32) ||| (a.addr.setWidth 40 <<< 8) ||| a.data.setWidth 40
      bitLen := 40, fsm := .wrOut }) ∧
    (s.fsm = .build → 2 ^ 24 ≤ a.addr.toNat ∨ 2 ^ 8 ≤ a.data.toNat →
      exec (.writeByte a) s = .next (s.ended .invalidArgument 0)) ∧
    (s.fsm = .extract → exec (.readByte a) s = .next (s.ended .ok (s.respWord &&& 0xFF)) ∧
      exec (.writeByte a) s = .next (s.ended .ok 0))

/-- R100, R101: the non-volatile configuration operations, 24 bits. -/
def Obligations.NvConfigOperationsBuildAndResult : Prop :=
  ∀ (a : Args) (s : State),
    (s.fsm = .build → exec (.readNonvolatileConfig a) s = .next { s with
      cmdWord := s.cfg.opcReadNvcfg.setWidth 40 <<< 16, bitLen := 24, fsm := .wrOut }) ∧
    (s.fsm = .build → a.data.toNat < 2 ^ 16 → exec (.writeNonvolatileConfig a) s = .next { s with
      cmdWord := (s.cfg.opcWriteNvcfg.setWidth 40 <<< 16) ||| a.data.setWidth 40, bitLen := 24, fsm := .wrOut }) ∧
    (s.fsm = .build → 2 ^ 16 ≤ a.data.toNat →
      exec (.writeNonvolatileConfig a) s = .next (s.ended .invalidArgument 0)) ∧
    (s.fsm = .extract → exec (.readNonvolatileConfig a) s = .next (s.ended .ok (s.respWord &&& 0xFFFF)) ∧
      exec (.writeNonvolatileConfig a) s = .next (s.ended .ok 0))

/-- R89: transfer sends the request's own word and length, and results in the whole of IN. -/
def Obligations.TransferBuildsAndResults : Prop :=
  ∀ (a : Args) (s : State),
    (s.fsm = .build → a.len.toNat ≠ 0 → a.len.toNat ≤ 40 → a.word.toNat < 2 ^ 40 → exec (.transfer a) s = .next { s with
      cmdWord := a.word.setWidth 40, bitLen := a.len, fsm := .wrOut }) ∧
    (s.fsm = .build → a.len.toNat = 0 ∨ 40 < a.len.toNat ∨ 2 ^ 40 ≤ a.word.toNat →
      exec (.transfer a) s = .next (s.ended .invalidArgument 0)) ∧
    (s.fsm = .extract → exec (.transfer a) s = .next (s.ended .ok s.respWord))

/-- R63: both reserved selectors complete with InvalidArgument at BUILD, and a request with either takes two steps. -/
def Obligations.ReservedSelectorsCompleteInvalid : Prop :=
  (∀ (a : Args) (s : State), s.fsm = .build →
    exec (.reservedE a) s = .next (s.ended .invalidArgument 0) ∧
    exec (.reservedF a) s = .next (s.ended .invalidArgument 0)) ∧
  (∀ (s : State) (r : Request) (x₀ x₁ : EnvInput) (rest : List EnvInput),
    r.op = 0xE ∨ r.op = 0xF → s.fsm = .idle → s.inputs = x₀ :: x₁ :: rest → x₀.rst = false → x₀.request = some r →
    x₁.rst = false →
    Sys2Proof.core.run 2 s = .next { (s.latching r) with
      inputs := rest, resValid := true, resStatus := .invalidArgument, resValue := 0, fsm := .idle })

/-! ## The environment's side -/

/-- R50: the bits a transfer sends, in order, and that the bits of the word at or above the length do not matter. -/
def Obligations.WireCarriesLowBitsInOrder : Prop :=
  ∀ (l : Nat) (w : XWord), (sentBits l w).length = l ∧
    (∀ k, k < l → (sentBits l w)[k]? = some (w.getLsbD (l - 1 - k))) ∧
    (∀ w' : XWord, (∀ k, k < l → w'.getLsbD k = w.getLsbD k) → sentBits l w' = sentBits l w)

/-- R48, R51: if `resp_word` holds the bits received in a transfer, a read operation results in the number its last 8, 16 or 24
received bits spell, and transfer in a value that holds all of them. First for each operation's own length, then for the length
the block built, for every operation. -/
def Obligations.ReadResultIsLastBitsReceived : Prop :=
  (∀ (a : Args) (s : State) (bits : List Bool), s.fsm = .extract →
    (inboundContract 32 bits s.respWord →
      ∃ v, exec (.readId a) s = .next (s.ended .ok v) ∧ v.toNat = bitsValue (bits.drop 8)) ∧
    (inboundContract 16 bits s.respWord →
      ∃ v, exec (.readStatus a) s = .next (s.ended .ok v) ∧ v.toNat = bitsValue (bits.drop 8)) ∧
    (inboundContract 24 bits s.respWord →
      ∃ v, exec (.readNonvolatileConfig a) s = .next (s.ended .ok v) ∧ v.toNat = bitsValue (bits.drop 8)) ∧
    (inboundContract 40 bits s.respWord →
      ∃ v, exec (.readSectorLock a) s = .next (s.ended .ok v) ∧ exec (.readByte a) s = .next (s.ended .ok v) ∧
        v.toNat = bitsValue (bits.drop 32)) ∧
    (inboundContract a.len.toNat bits s.respWord →
      ∃ v, exec (.transfer a) s = .next (s.ended .ok v) ∧ v.toNat % 2 ^ a.len.toNat = bitsValue bits)) ∧
  (∀ (s : State) (bits : List Bool), Inv s → s.fsm = .extract → s.input.rst = false →
    inboundContract s.bitLen.toNat bits s.respWord →
    ∃ v, step s = .next (State.ended { s with inputs := s.inputs.tail } .ok v) ∧
      (s.reqOp ≠ 0xD → v.toNat = receivedValue s.reqOp bits) ∧
      (s.reqOp = 0xD → v.toNat % 2 ^ s.bitLen.toNat = bitsValue bits))

/-- R37, R41, R50: from the CTRL write to the completion, the values last written to OUT and CTRL are the command word and its
control word, the transfer last started is the one they started, and it sends the low `bit_len` bits of `cmd_word`. -/
def Obligations.TransferSendsTheCommandWord : Prop :=
  ∀ s : State, Inv s → s.fsm = .poll ∨ s.fsm = .rdIn ∨ s.fsm = .extract →
    (wireOf s.history).out = some s.cmdWord ∧ (wireOf s.history).ctrl = some (ctrlWord s.bitLen) ∧
    ∃ x, (wireOf s.history).started.getLast? = some x ∧ x.len = s.bitLen.toNat ∧ x.word = some s.cmdWord ∧
      x.sent = some (sentBits s.bitLen.toNat s.cmdWord)

/-- R53, R81: the STATUS reads of a transaction. In POLL all of them showed the done flag clear; in RD_IN and EXTRACT all but the
last did and the last showed it set; only the IN read follows them. So they have the shape the contract admits. -/
def Obligations.StatusReadsMeetDoneContract : Prop :=
  ∀ s : State, Inv s → s.fsm = .poll ∨ s.fsm = .rdIn ∨ s.fsm = .extract →
    ∃ (h : List Event) (vs : List RegWord) (tl : List Event),
      s.history = h ++ s.started ++ statusReads vs ++ tl ∧ doneContract vs = true ∧
      (s.fsm = .poll → ∀ v ∈ vs, doneFlag v = false) ∧
      (s.fsm ≠ .poll → ∃ (us : List RegWord) (d : RegWord),
        vs = us ++ [d] ∧ (∀ v ∈ us, doneFlag v = false) ∧ doneFlag d = true) ∧
      (s.fsm = .extract → tl = [.rIn (some s.respWord)]) ∧ (s.fsm ≠ .extract → tl = []) ∧
      vs.length ≤ s.cfg.pollLimit.toNat ∧
      (wireOf s.history).polls = vs.length ∧ (wireOf s.history).done = decide (s.fsm ≠ .poll)

/-- R41, R37: a step starts a transfer only by a CTRL write answered Ok in WR_CTRL, with the length built and the word that OUT
holds then; a write of OUT only stores; the reads, and a step without an access, change neither OUT nor the transfers. -/
def Obligations.TransfersStartOnlyAtCtrlWrite : Prop :=
  ∀ s t : State, step s = .next t →
    ((wireOf t.history).started = (wireOf s.history).started ∨
      (s.fsm = .wrCtrl ∧ t.fsm = .poll ∧ (wireOf t.history).started =
        (wireOf s.history).started ++ [⟨s.bitLen.toNat, (wireOf s.history).out⟩])) ∧
    (s.fsm = .wrCtrl → t.fsm = .poll → (wireOf t.history).started ≠ (wireOf s.history).started) ∧
    ((wireOf t.history).out = (wireOf s.history).out ∨
      (s.fsm = .wrOut ∧ t.fsm = .wrCtrl ∧ (wireOf t.history).out = some s.cmdWord) ∨
      (s.fsm = .wrOut ∧ t.resStatus = .transportError ∧ (wireOf t.history).out = none)) ∧
    (s.fsm = .wrOut → t.fsm = .wrCtrl → (wireOf t.history).out = some s.cmdWord)

/-- R53 to R55: what one answer of an environment that meets the contract means. While `env_indeterminate` = 0, a done flag read
set is the end of the transfer this transaction started, with its own word and length, and the IN read after it puts the bits
received in that transfer into `resp_word`; once the flag is 1 the contract asks nothing. -/
def Obligations.ContractedAnswersAreThisTransfers : Prop :=
  (∀ (draws : Nat → TransferDraw) (s : State), s.envIndeterminate = true → s.meetsContract draws) ∧
  ∀ (draws : Nat → TransferDraw) (s t : State) (v : XWord), Inv s → s.envIndeterminate = false → s.meetsContract draws →
    s.input.rst = false → s.input.answer = some (.ok v) → step s = .next t →
    (s.fsm = .poll →
      (wireOf s.history).started.getLast? = some ⟨s.bitLen.toNat, some s.cmdWord⟩ ∧
      (t.fsm = .rdIn ↔ (s.draw draws).over s.pollCnt.toNat = true)) ∧
    (s.fsm = .rdIn → t.respWord = v ∧ t.draw draws = s.draw draws ∧
      inboundContract t.bitLen.toNat (t.draw draws).received t.respWord)

/-- R53, R54, R85: a whole transaction in an environment that meets the contract and answers Ok. The draw of its transfer decides
it: with `k` below POLL_LIMIT it ends OK after 7 + k steps with the number the received bits spell, and else it times out. -/
def Obligations.ContractedTransaction : Prop :=
  ∀ (draws : Nat → TransferDraw) (s : State) (r : Request) (w l : Nat),
    s.fsm = .idle → s.envIndeterminate = false → s.cfg.wf → s.input.request = some r → refEncode s.cfg r = some (w, l) →
    untilIdle (fun u => u.answeredOk ∧ u.meetsContract draws) (6 + s.cfg.pollLimit.toNat) s →
    let d := draws ((wireOf s.history).started.length + 1)
    (∀ k, d.clearReads = some k → k < s.cfg.pollLimit.toNat →
      ∃ t, Sys2Proof.core.run (7 + k) s = .next t ∧ t.fsm = .idle ∧ t.resValid = true ∧ t.resStatus = .ok ∧
        t.envIndeterminate = false ∧ inboundContract l d.received t.respWord ∧
        (r.op ≠ 0xD → t.resValue.toNat = receivedValue r.op d.received) ∧
        (r.op = 0xD → t.resValue.toNat % 2 ^ l = bitsValue d.received)) ∧
    ((∀ k, d.clearReads = some k → s.cfg.pollLimit.toNat ≤ k) →
      ∃ t, Sys2Proof.core.run (4 + s.cfg.pollLimit.toNat) s = .next t ∧ t.fsm = .idle ∧ t.resValid = true ∧
        t.resStatus = .deviceTimeout ∧ t.resValue = 0 ∧ t.envIndeterminate = true)
end

