-- ==== Sys2Proof/Laws/Decode.lean ====
section
/-! SUPPORT. The packed request as a number, and the OPSEL map read both ways. -/

namespace Sys2Proof

theorem append_toNat_add {n m : Nat} (x : BitVec n) (y : BitVec m) : (x ++ y).toNat = x.toNat * 2 ^ m + y.toNat := by
  rw [BitVec.toNat_append, Nat.shiftLeft_eq, ← Nat.shiftLeft_eq, Nat.shiftLeft_add_eq_or_of_lt y.isLt]

/-- The packed request as a number (R61): `op + addr * 2^4 + data * 2^36 + len * 2^68 + word * 2^76`. -/
theorem pack_toNat (r : Request) : r.pack.toNat =
    r.op.toNat + r.addr.toNat * 2 ^ 4 + r.data.toNat * 2 ^ 36 + r.len.toNat * 2 ^ 68 + r.word.toNat * 2 ^ 76 := by
  have := r.op.isLt; have := r.addr.isLt; have := r.data.isLt; have := r.len.isLt; have := r.word.isLt
  simp only [Request.pack, BitVec.toNat_setWidth, append_toNat_add]
  omega

theorem pack_low4 (r : Request) : r.pack.extractLsb' 0 4 = r.op := by
  apply BitVec.eq_of_toNat_eq
  have := r.op.isLt
  rw [BitVec.extractLsb'_toNat, pack_toNat]; simp only [Nat.shiftRight_zero]; omega

@[simp] theorem request_args (a : Args) (op : OpSel) : (a.request op).args = a := rfl
@[simp] theorem args_request (r : Request) : r.args.request r.op = r := rfl

/-- The request of an operation selects that operation (R62, R63). -/
@[simp] theorem decodeRequest_encodeRequest (i : Instr) : decodeRequest (encodeRequest i) = i := by
  cases i <;> rfl

/-- A request is the request of the operation it selects: the OPSEL map is one to one (R62, R63). -/
@[simp] theorem encodeRequest_decodeRequest (r : Request) : encodeRequest (decodeRequest r) = r := by
  obtain ⟨op, addr, data, len, word⟩ := r
  have h : ∀ o : OpSel, encodeRequest (decodeRequest ⟨o, addr, data, len, word⟩) = ⟨o, addr, data, len, word⟩ := by
    intro o
    have ho : o ∈ (List.range 16).map (BitVec.ofNat 4) := by revert o; decide
    fin_cases ho <;> rfl
  exact h op

end Sys2Proof
end

