-- ==== Sys2Proof/Laws/Operands.lean ====
section
/-! SUPPORT. What the operand forms compute, as numbers: range checks, command-word formats, the control word and the
extractions. -/

namespace Sys2Proof.Machine

theorem addrArg_eq_none_iff (a : Args) : addrArg a = none ↔ ¬ a.addrLegal := by
  unfold addrArg Args.addrLegal; split <;> simp_all

theorem addrArg_of_legal {a : Args} (h : a.addrLegal) : addrArg a = some (a.addr.setWidth 24) := if_pos h

theorem byteArg_eq_none_iff (a : Args) : byteArg a = none ↔ ¬ a.byteLegal := by
  unfold byteArg Args.byteLegal; split <;> simp_all

theorem byteArg_of_legal {a : Args} (h : a.byteLegal) : byteArg a = some (a.data.setWidth 8) := if_pos h

theorem halfArg_eq_none_iff (a : Args) : halfArg a = none ↔ ¬ a.halfLegal := by
  unfold halfArg Args.halfLegal; split <;> simp_all

theorem halfArg_of_legal {a : Args} (h : a.halfLegal) : halfArg a = some (a.data.setWidth 16) := if_pos h

theorem rawFrame_of_legal {a : Args} (hl : a.lenLegal) (hw : a.wordLegal) :
    rawFrame a = some ⟨a.word.setWidth 40, a.len⟩ := by
  unfold rawFrame; rw [if_neg]; simp only [Args.lenLegal, Args.wordLegal] at hl hw; omega

theorem rawFrame_eq_none_iff (a : Args) : rawFrame a = none ↔ ¬ (a.lenLegal ∧ a.wordLegal) := by
  unfold rawFrame Args.lenLegal Args.wordLegal
  split
  · simp only [true_iff]; omega
  · simp only [reduceCtorEq, false_iff]; omega

/-! The command words as numbers (R66, R67). -/

theorem cw8_word_toNat (opc : Byte) : (cw8 opc).word.toNat = opc.toNat := by
  have := opc.isLt; simp only [cw8, BitVec.toNat_setWidth]; omega

theorem cw16_word_toNat (opc d : Byte) : (cw16 opc d).word.toNat = opc.toNat * 2 ^ 8 + d.toNat := by
  have := opc.isLt; have := d.isLt
  simp only [cw16, BitVec.toNat_setWidth, append_toNat_add]; omega

theorem cw24_word_toNat (opc : Byte) (d : BitVec 16) : (cw24 opc d).word.toNat = opc.toNat * 2 ^ 16 + d.toNat := by
  have := opc.isLt; have := d.isLt
  simp only [cw24, BitVec.toNat_setWidth, append_toNat_add]; omega

theorem cw32R_word_toNat (opc : Byte) : (cw32R opc).word.toNat = opc.toNat * 2 ^ 24 := by
  have := opc.isLt
  simp only [cw32R, BitVec.toNat_setWidth, append_toNat_add, BitVec.toNat_ofNat]; omega

theorem cw32A_word_toNat (opc : Byte) (a : FlashAddr) : (cw32A opc a).word.toNat = opc.toNat * 2 ^ 24 + a.toNat := by
  have := opc.isLt; have := a.isLt
  simp only [cw32A, BitVec.toNat_setWidth, append_toNat_add]; omega

theorem cw40_word_toNat (opc : Byte) (a : FlashAddr) (d : Byte) :
    (cw40 opc a d).word.toNat = opc.toNat * 2 ^ 32 + a.toNat * 2 ^ 8 + d.toNat := by
  have := opc.isLt; have := a.isLt; have := d.isLt
  simp only [cw40, BitVec.toNat_setWidth, append_toNat_add]; omega

/-! The lengths of the formats (R67). -/

@[simp] theorem cw8_len (opc : Byte) : (cw8 opc).len.toNat = 8 := rfl
@[simp] theorem cw16_len (opc d : Byte) : (cw16 opc d).len.toNat = 16 := rfl
@[simp] theorem cw24_len (opc : Byte) (d : BitVec 16) : (cw24 opc d).len.toNat = 24 := rfl
@[simp] theorem cw32R_len (opc : Byte) : (cw32R opc).len.toNat = 32 := rfl
@[simp] theorem cw32A_len (opc : Byte) (a : FlashAddr) : (cw32A opc a).len.toNat = 32 := rfl
@[simp] theorem cw40_len (opc : Byte) (a : FlashAddr) (d : Byte) : (cw40 opc a d).len.toNat = 40 := rfl

/-! The extractions as numbers (R69). -/

theorem keepLow8_toNat (v : XWord) : (keepLow8 v).toNat = v.toNat % 2 ^ 8 := by
  simp only [keepLow8, BitVec.toNat_setWidth, BitVec.extractLsb'_toNat, Nat.shiftRight_zero]; omega

theorem keepLow16_toNat (v : XWord) : (keepLow16 v).toNat = v.toNat % 2 ^ 16 := by
  simp only [keepLow16, BitVec.toNat_setWidth, BitVec.extractLsb'_toNat, Nat.shiftRight_zero]; omega

theorem keepLow24_toNat (v : XWord) : (keepLow24 v).toNat = v.toNat % 2 ^ 24 := by
  simp only [keepLow24, BitVec.toNat_setWidth, BitVec.extractLsb'_toNat, Nat.shiftRight_zero]; omega

/-! The control word (R31, R70). -/

theorem ctrlWord_toNat (l : BitLen) : (ctrlWord l).toNat = l.toNat * 2 ^ 8 + 1 := by
  have h := l.isLt
  have e : (l.toNat % 2 ^ 32) <<< 8 % 2 ^ 32 = l.toNat <<< 8 := by simp only [Nat.shiftLeft_eq]; omega
  simp only [ctrlWord, Config.ctrlLenLsb, Config.ctrlStartBit, BitVec.toNat_or, BitVec.toNat_shiftLeft,
    BitVec.toNat_setWidth, BitVec.toNat_ofNat]
  rw [e]
  have := Nat.shiftLeft_add_eq_or_of_lt (a := l.toNat) (i := 8) (b := 1) (by omega)
  simp only [Nat.shiftLeft_eq] at this ⊢
  simpa using this.symm

end Sys2Proof.Machine
end

