-- ==== Sys2Proof/Laws/State.lean ====
section
/-! SUPPORT. What each update of the state leaves in each field: one lemma per field and update, by rfl. -/

namespace Sys2Proof.Machine

variable (s : State)

/-! One step of the environment has passed. -/

@[simp] theorem tick_cfg : (s.tick).cfg = s.cfg := rfl
@[simp] theorem tick_inputs : (s.tick).inputs = s.inputs.tail := rfl
@[simp] theorem tick_history : (s.tick).history = s.history := rfl
@[simp] theorem tick_fsm : (s.tick).fsm = s.fsm := rfl
@[simp] theorem tick_reqOp : (s.tick).reqOp = s.reqOp := rfl
@[simp] theorem tick_reqAddr : (s.tick).reqAddr = s.reqAddr := rfl
@[simp] theorem tick_reqData : (s.tick).reqData = s.reqData := rfl
@[simp] theorem tick_reqLen : (s.tick).reqLen = s.reqLen := rfl
@[simp] theorem tick_reqWord : (s.tick).reqWord = s.reqWord := rfl
@[simp] theorem tick_cmdWord : (s.tick).cmdWord = s.cmdWord := rfl
@[simp] theorem tick_bitLen : (s.tick).bitLen = s.bitLen := rfl
@[simp] theorem tick_pollCnt : (s.tick).pollCnt = s.pollCnt := rfl
@[simp] theorem tick_respWord : (s.tick).respWord = s.respWord := rfl
@[simp] theorem tick_resValid : (s.tick).resValid = s.resValid := rfl
@[simp] theorem tick_resStatus : (s.tick).resStatus = s.resStatus := rfl
@[simp] theorem tick_resValue : (s.tick).resValue = s.resValue := rfl
@[simp] theorem tick_envIndeterminate : (s.tick).envIndeterminate = s.envIndeterminate := rfl

/-! Acceptance (R76). -/

@[simp] theorem accept_cfg (r : Request) : (s.accept r).cfg = s.cfg := rfl
@[simp] theorem accept_inputs (r : Request) : (s.accept r).inputs = s.inputs := rfl
@[simp] theorem accept_history (r : Request) : (s.accept r).history = s.history := rfl
@[simp] theorem accept_fsm (r : Request) : (s.accept r).fsm = .build := rfl
@[simp] theorem accept_reqOp (r : Request) : (s.accept r).reqOp = r.op := rfl
@[simp] theorem accept_reqAddr (r : Request) : (s.accept r).reqAddr = r.addr := rfl
@[simp] theorem accept_reqData (r : Request) : (s.accept r).reqData = r.data := rfl
@[simp] theorem accept_reqLen (r : Request) : (s.accept r).reqLen = r.len := rfl
@[simp] theorem accept_reqWord (r : Request) : (s.accept r).reqWord = r.word := rfl
@[simp] theorem accept_cmdWord (r : Request) : (s.accept r).cmdWord = s.cmdWord := rfl
@[simp] theorem accept_bitLen (r : Request) : (s.accept r).bitLen = s.bitLen := rfl
@[simp] theorem accept_pollCnt (r : Request) : (s.accept r).pollCnt = s.pollCnt := rfl
@[simp] theorem accept_respWord (r : Request) : (s.accept r).respWord = s.respWord := rfl
@[simp] theorem accept_resValid (r : Request) : (s.accept r).resValid = false := rfl
@[simp] theorem accept_resStatus (r : Request) : (s.accept r).resStatus = .ok := rfl
@[simp] theorem accept_resValue (r : Request) : (s.accept r).resValue = 0 := rfl
@[simp] theorem accept_envIndeterminate (r : Request) : (s.accept r).envIndeterminate = s.envIndeterminate := rfl

/-! Completion (R108). -/

@[simp] theorem complete_cfg (st : ResStatus) (val : XWord) : (s.complete st val).cfg = s.cfg := rfl
@[simp] theorem complete_inputs (st : ResStatus) (val : XWord) : (s.complete st val).inputs = s.inputs := rfl
@[simp] theorem complete_history (st : ResStatus) (val : XWord) : (s.complete st val).history = s.history := rfl
@[simp] theorem complete_fsm (st : ResStatus) (val : XWord) : (s.complete st val).fsm = .idle := rfl
@[simp] theorem complete_reqOp (st : ResStatus) (val : XWord) : (s.complete st val).reqOp = s.reqOp := rfl
@[simp] theorem complete_reqAddr (st : ResStatus) (val : XWord) : (s.complete st val).reqAddr = s.reqAddr := rfl
@[simp] theorem complete_reqData (st : ResStatus) (val : XWord) : (s.complete st val).reqData = s.reqData := rfl
@[simp] theorem complete_reqLen (st : ResStatus) (val : XWord) : (s.complete st val).reqLen = s.reqLen := rfl
@[simp] theorem complete_reqWord (st : ResStatus) (val : XWord) : (s.complete st val).reqWord = s.reqWord := rfl
@[simp] theorem complete_cmdWord (st : ResStatus) (val : XWord) : (s.complete st val).cmdWord = s.cmdWord := rfl
@[simp] theorem complete_bitLen (st : ResStatus) (val : XWord) : (s.complete st val).bitLen = s.bitLen := rfl
@[simp] theorem complete_pollCnt (st : ResStatus) (val : XWord) : (s.complete st val).pollCnt = s.pollCnt := rfl
@[simp] theorem complete_respWord (st : ResStatus) (val : XWord) : (s.complete st val).respWord = s.respWord := rfl
@[simp] theorem complete_resValid (st : ResStatus) (val : XWord) : (s.complete st val).resValid = true := rfl
@[simp] theorem complete_resStatus (st : ResStatus) (val : XWord) : (s.complete st val).resStatus = st := rfl
@[simp] theorem complete_resValue (st : ResStatus) (val : XWord) : (s.complete st val).resValue = if st = .ok then val else 0 := rfl
@[simp] theorem complete_envIndeterminate (st : ResStatus) (val : XWord) : (s.complete st val).envIndeterminate = (s.envIndeterminate || st.leavesIndeterminate) := rfl

/-! Raising an error (R103, R108). -/

@[simp] theorem raise_cfg (e : ResStatus) : (s.raise e).cfg = s.cfg := rfl
@[simp] theorem raise_inputs (e : ResStatus) : (s.raise e).inputs = s.inputs := rfl
@[simp] theorem raise_history (e : ResStatus) : (s.raise e).history = s.history := rfl
@[simp] theorem raise_fsm (e : ResStatus) : (s.raise e).fsm = .idle := rfl
@[simp] theorem raise_reqOp (e : ResStatus) : (s.raise e).reqOp = s.reqOp := rfl
@[simp] theorem raise_reqAddr (e : ResStatus) : (s.raise e).reqAddr = s.reqAddr := rfl
@[simp] theorem raise_reqData (e : ResStatus) : (s.raise e).reqData = s.reqData := rfl
@[simp] theorem raise_reqLen (e : ResStatus) : (s.raise e).reqLen = s.reqLen := rfl
@[simp] theorem raise_reqWord (e : ResStatus) : (s.raise e).reqWord = s.reqWord := rfl
@[simp] theorem raise_cmdWord (e : ResStatus) : (s.raise e).cmdWord = s.cmdWord := rfl
@[simp] theorem raise_bitLen (e : ResStatus) : (s.raise e).bitLen = s.bitLen := rfl
@[simp] theorem raise_pollCnt (e : ResStatus) : (s.raise e).pollCnt = s.pollCnt := rfl
@[simp] theorem raise_respWord (e : ResStatus) : (s.raise e).respWord = s.respWord := rfl
@[simp] theorem raise_resValid (e : ResStatus) : (s.raise e).resValid = true := rfl
@[simp] theorem raise_resStatus (e : ResStatus) : (s.raise e).resStatus = e := rfl
@[simp] theorem raise_resValue (e : ResStatus) : (s.raise e).resValue = 0 := ite_self 0
@[simp] theorem raise_envIndeterminate (e : ResStatus) : (s.raise e).envIndeterminate = (s.envIndeterminate || e.leavesIndeterminate) := rfl

/-! Appending to `H` (R37, R38). -/

@[simp] theorem log_cfg (e : Event) : (s.log e).cfg = s.cfg := rfl
@[simp] theorem log_inputs (e : Event) : (s.log e).inputs = s.inputs := rfl
@[simp] theorem log_history (e : Event) : (s.log e).history = s.history ++ [e] := rfl
@[simp] theorem log_fsm (e : Event) : (s.log e).fsm = s.fsm := rfl
@[simp] theorem log_reqOp (e : Event) : (s.log e).reqOp = s.reqOp := rfl
@[simp] theorem log_reqAddr (e : Event) : (s.log e).reqAddr = s.reqAddr := rfl
@[simp] theorem log_reqData (e : Event) : (s.log e).reqData = s.reqData := rfl
@[simp] theorem log_reqLen (e : Event) : (s.log e).reqLen = s.reqLen := rfl
@[simp] theorem log_reqWord (e : Event) : (s.log e).reqWord = s.reqWord := rfl
@[simp] theorem log_cmdWord (e : Event) : (s.log e).cmdWord = s.cmdWord := rfl
@[simp] theorem log_bitLen (e : Event) : (s.log e).bitLen = s.bitLen := rfl
@[simp] theorem log_pollCnt (e : Event) : (s.log e).pollCnt = s.pollCnt := rfl
@[simp] theorem log_respWord (e : Event) : (s.log e).respWord = s.respWord := rfl
@[simp] theorem log_resValid (e : Event) : (s.log e).resValid = s.resValid := rfl
@[simp] theorem log_resStatus (e : Event) : (s.log e).resStatus = s.resStatus := rfl
@[simp] theorem log_resValue (e : Event) : (s.log e).resValue = s.resValue := rfl
@[simp] theorem log_envIndeterminate (e : Event) : (s.log e).envIndeterminate = s.envIndeterminate := rfl

/-! Reset (R118, R119). -/

@[simp] theorem resetBlock_cfg : (s.resetBlock).cfg = s.cfg := rfl
@[simp] theorem resetBlock_inputs : (s.resetBlock).inputs = s.inputs := rfl
@[simp] theorem resetBlock_history : (s.resetBlock).history = s.history := rfl
@[simp] theorem resetBlock_fsm : (s.resetBlock).fsm = .idle := rfl
@[simp] theorem resetBlock_reqOp : (s.resetBlock).reqOp = 0 := rfl
@[simp] theorem resetBlock_reqAddr : (s.resetBlock).reqAddr = 0 := rfl
@[simp] theorem resetBlock_reqData : (s.resetBlock).reqData = 0 := rfl
@[simp] theorem resetBlock_reqLen : (s.resetBlock).reqLen = 0 := rfl
@[simp] theorem resetBlock_reqWord : (s.resetBlock).reqWord = 0 := rfl
@[simp] theorem resetBlock_cmdWord : (s.resetBlock).cmdWord = 0 := rfl
@[simp] theorem resetBlock_bitLen : (s.resetBlock).bitLen = 0 := rfl
@[simp] theorem resetBlock_pollCnt : (s.resetBlock).pollCnt = 0 := rfl
@[simp] theorem resetBlock_respWord : (s.resetBlock).respWord = 0 := rfl
@[simp] theorem resetBlock_resValid : (s.resetBlock).resValid = false := rfl
@[simp] theorem resetBlock_resStatus : (s.resetBlock).resStatus = .ok := rfl
@[simp] theorem resetBlock_resValue : (s.resetBlock).resValue = 0 := rfl
@[simp] theorem resetBlock_envIndeterminate : (s.resetBlock).envIndeterminate = (s.envIndeterminate || decide (s.fsm = .poll)) := rfl

/-! Offering a request. -/

@[simp] theorem offering_cfg (r : Request) : (s.offering r).cfg = s.cfg := rfl
@[simp] theorem offering_inputs (r : Request) : (s.offering r).inputs = { s.input with rst := false, request := some r } :: s.inputs.tail := rfl
@[simp] theorem offering_history (r : Request) : (s.offering r).history = s.history := rfl
@[simp] theorem offering_fsm (r : Request) : (s.offering r).fsm = .idle := rfl
@[simp] theorem offering_reqOp (r : Request) : (s.offering r).reqOp = s.reqOp := rfl
@[simp] theorem offering_reqAddr (r : Request) : (s.offering r).reqAddr = s.reqAddr := rfl
@[simp] theorem offering_reqData (r : Request) : (s.offering r).reqData = s.reqData := rfl
@[simp] theorem offering_reqLen (r : Request) : (s.offering r).reqLen = s.reqLen := rfl
@[simp] theorem offering_reqWord (r : Request) : (s.offering r).reqWord = s.reqWord := rfl
@[simp] theorem offering_cmdWord (r : Request) : (s.offering r).cmdWord = s.cmdWord := rfl
@[simp] theorem offering_bitLen (r : Request) : (s.offering r).bitLen = s.bitLen := rfl
@[simp] theorem offering_pollCnt (r : Request) : (s.offering r).pollCnt = s.pollCnt := rfl
@[simp] theorem offering_respWord (r : Request) : (s.offering r).respWord = s.respWord := rfl
@[simp] theorem offering_resValid (r : Request) : (s.offering r).resValid = s.resValid := rfl
@[simp] theorem offering_resStatus (r : Request) : (s.offering r).resStatus = s.resStatus := rfl
@[simp] theorem offering_resValue (r : Request) : (s.offering r).resValue = s.resValue := rfl
@[simp] theorem offering_envIndeterminate (r : Request) : (s.offering r).envIndeterminate = s.envIndeterminate := rfl

end Sys2Proof.Machine
end

