-- ==== Sys2Proof/Laws/Ops.lean ====
section
/-! SUPPORT. Everything the shared operations can do: the two access primitives, completion, the input list. -/

namespace Sys2Proof.Machine

/-- Everything `MemWrite` can do (R37, R87, R106). -/
theorem memWrite_cases (s : State) (ev : Bool → Event) (onOk : State → State) :
    (s.input.answer = none ∧ s.memWrite ev onOk = s) ∨
    (s.input.answer = some .err ∧ s.memWrite ev onOk = (s.log (ev false)).raise .transportError) ∨
    (∃ v, s.input.answer = some (.ok v) ∧ s.memWrite ev onOk = onOk (s.log (ev true))) := by
  unfold State.memWrite
  split <;> simp_all

/-- Everything `MemRead` can do (R38, R87, R106). -/
theorem memRead_cases (s : State) {n : Nat} (take : XWord → BitVec n) (ev : Option (BitVec n) → Event)
    (onOk : BitVec n → State → State) :
    (s.input.answer = none ∧ s.memRead take ev onOk = s) ∨
    (s.input.answer = some .err ∧ s.memRead take ev onOk = (s.log (ev none)).raise .transportError) ∨
    (∃ v, s.input.answer = some (.ok v) ∧ s.memRead take ev onOk = onOk (take v) (s.log (ev (some (take v))))) := by
  unfold State.memRead
  split <;> simp_all

/-- An error records no value, and a completion shows its outcome (R103, R108). -/
theorem complete_eq_ended (s : State) (st : ResStatus) (val : XWord) :
    s.complete st val = s.ended st (if st = .ok then val else 0) := by
  cases st <;> rfl

theorem raise_eq_ended (s : State) (e : ResStatus) : s.raise e = s.ended e 0 := by
  cases e <;> rfl

@[simp] theorem input_cons (s : State) (x : EnvInput) (xs : List EnvInput) : { s with inputs := x :: xs }.input = x := rfl

theorem input_of_inputs {s : State} {x : EnvInput} {xs : List EnvInput} (h : s.inputs = x :: xs) : s.input = x := by
  simp [State.input, h]

@[simp] theorem offering_input (s : State) (r : Request) :
    (s.offering r).input = { s.input with rst := false, request := some r } := rfl

end Sys2Proof.Machine
end

