-- ==== Sys2Proof/Laws/Controller.lean ====
section
/-! SUPPORT. Every operation is the one controller with its own frame and extraction; what `exec` can answer, state by state. -/

namespace Sys2Proof

/-- What BUILD computes for each operation, none where it refuses the request (R63, R64, R67). -/
def Instr.frame (p : Params) : Instr → Option Machine.CmdFrame
  | .readId _ => some (Machine.cw32R p.opcReadId)
  | .writeEnable _ => some (Machine.cw8 p.opcWriteEnable)
  | .writeDisable _ => some (Machine.cw8 p.opcWriteDisable)
  | .readStatus _ => some (Machine.cw16 p.opcReadStatus 0)
  | .writeStatus a => (Machine.byteArg a).map (Machine.cw16 p.opcWriteStatus)
  | .eraseSector a => (Machine.addrArg a).map (Machine.cw32A Config.opcSectorErase)
  | .readSectorLock a => (Machine.addrArg a).map (Machine.cw40 p.opcReadLock · 0)
  | .writeSectorLock a =>
      (Machine.addrArg a).bind fun ad => (Machine.byteArg a).map (Machine.cw40 p.opcWriteLock ad)
  | .readByte a => (Machine.addrArg a).map (Machine.cw40 p.opcRead · 0)
  | .writeByte a =>
      (Machine.addrArg a).bind fun ad => (Machine.byteArg a).map (Machine.cw40 p.opcPageProgram ad)
  | .readNonvolatileConfig _ => some (Machine.cw24 p.opcReadNvcfg 0)
  | .writeNonvolatileConfig a => (Machine.halfArg a).map (Machine.cw24 p.opcWriteNvcfg)
  | .bulkErase _ => some (Machine.cw8 p.opcBulkErase)
  | .transfer a => Machine.rawFrame a
  | .reservedE _ => none
  | .reservedF _ => none

/-- What EXTRACT keeps for each operation (R69). -/
def Instr.keep : Instr → XWord → XWord
  | .readId _ => Machine.keepLow24
  | .writeEnable _ => Machine.keepNone
  | .writeDisable _ => Machine.keepNone
  | .readStatus _ => Machine.keepLow8
  | .writeStatus _ => Machine.keepNone
  | .eraseSector _ => Machine.keepNone
  | .readSectorLock _ => Machine.keepLow8
  | .writeSectorLock _ => Machine.keepNone
  | .readByte _ => Machine.keepLow8
  | .writeByte _ => Machine.keepNone
  | .readNonvolatileConfig _ => Machine.keepLow16
  | .writeNonvolatileConfig _ => Machine.keepNone
  | .bulkErase _ => Machine.keepNone
  | .transfer _ => Machine.keepAll
  | .reservedE _ => Machine.keepNone
  | .reservedF _ => Machine.keepNone

namespace Machine

theorem exec_eq_serve (i : Instr) (s : State) : exec i s = serve (encodeRequest i) (i.frame s.cfg) i.keep s := by
  cases i <;> rfl

/-- The state that one step of the controller leads to, by the state it starts from (R76 to R83). -/
def State.served (s : State) (i : Instr) : State :=
  match s.fsm with
  | .idle => s.accept (encodeRequest i)
  | .build => s.buildStep (i.frame s.cfg)
  | .wrOut => s.wrOutStep
  | .wrCtrl => s.wrCtrlStep
  | .poll => s.pollStep
  | .rdIn => s.rdInStep
  | .extract => s.extractStep i.keep
  | .unused7 => s

/-- `exec` refuses `fsm` = 7 and nothing else. -/
theorem exec_eq (i : Instr) (s : State) :
    exec i s = if s.fsm = .unused7 then .refused .unreachableFsm else .next (s.served i) := by
  rw [exec_eq_serve]; unfold serve State.served; cases s.fsm <;> rfl

theorem exec_next_iff (i : Instr) (s t : State) :
    exec i s = .next t ↔ s.fsm ≠ .unused7 ∧ t = s.served i := by
  rw [exec_eq]; split <;> simp_all [eq_comm]

theorem exec_idle {i : Instr} {s : State} (h : s.fsm = .idle) : exec i s = .next (s.accept (encodeRequest i)) := by
  rw [exec_eq]; simp [State.served, h]

theorem exec_build {i : Instr} {s : State} (h : s.fsm = .build) : exec i s = .next (s.buildStep (i.frame s.cfg)) := by
  rw [exec_eq]; simp [State.served, h]

theorem exec_wrOut {i : Instr} {s : State} (h : s.fsm = .wrOut) : exec i s = .next s.wrOutStep := by
  rw [exec_eq]; simp [State.served, h]

theorem exec_wrCtrl {i : Instr} {s : State} (h : s.fsm = .wrCtrl) : exec i s = .next s.wrCtrlStep := by
  rw [exec_eq]; simp [State.served, h]

theorem exec_poll {i : Instr} {s : State} (h : s.fsm = .poll) : exec i s = .next s.pollStep := by
  rw [exec_eq]; simp [State.served, h]

theorem exec_rdIn {i : Instr} {s : State} (h : s.fsm = .rdIn) : exec i s = .next s.rdInStep := by
  rw [exec_eq]; simp [State.served, h]

theorem exec_extract {i : Instr} {s : State} (h : s.fsm = .extract) : exec i s = .next (s.extractStep i.keep) := by
  rw [exec_eq]; simp [State.served, h]

/-! Everything each access state's step can do (R79 to R82, R87, R106). -/

theorem wrOutStep_cases (s : State) :
    (s.input.answer = none ∧ s.wrOutStep = s) ∨
    (s.input.answer = some .err ∧ s.wrOutStep = (s.log (.wOut s.cmdWord false)).raise .transportError) ∨
    (∃ v, s.input.answer = some (.ok v) ∧
      s.wrOutStep = { s with history := s.history ++ [.wOut s.cmdWord true], fsm := .wrCtrl }) :=
  memWrite_cases s (Event.wOut s.cmdWord) _

theorem wrCtrlStep_cases (s : State) :
    (s.input.answer = none ∧ s.wrCtrlStep = s) ∨
    (s.input.answer = some .err ∧ s.wrCtrlStep = (s.log (.wCtrl (ctrlWord s.bitLen) false)).raise .transportError) ∨
    (∃ v, s.input.answer = some (.ok v) ∧
      s.wrCtrlStep = { s with
        history := s.history ++ [.wCtrl (ctrlWord s.bitLen) true], pollCnt := 0, fsm := .poll }) :=
  memWrite_cases s (Event.wCtrl (ctrlWord s.bitLen)) _

theorem pollStep_cases (s : State) :
    (s.input.answer = none ∧ s.pollStep = s) ∨
    (s.input.answer = some .err ∧ s.pollStep = (s.log (.rStatus none)).raise .transportError) ∨
    (∃ v, s.input.answer = some (.ok v) ∧
      ((doneFlag (statusValue v) = true ∧
          s.pollStep = { s with history := s.history ++ [.rStatus (some (statusValue v))], fsm := .rdIn }) ∨
       (doneFlag (statusValue v) = false ∧ s.pollCnt + 1 = s.cfg.pollLimit ∧
          s.pollStep = (s.log (.rStatus (some (statusValue v)))).raise .deviceTimeout) ∨
       (doneFlag (statusValue v) = false ∧ s.pollCnt + 1 ≠ s.cfg.pollLimit ∧
          s.pollStep = { s with
            history := s.history ++ [.rStatus (some (statusValue v))], pollCnt := s.pollCnt + 1 }))) := by
  rcases memRead_cases s statusValue Event.rStatus (fun v t =>
      if doneFlag v then { t with fsm := .rdIn }
      else if t.pollCnt + 1 = t.cfg.pollLimit then t.raise .deviceTimeout
      else { t with pollCnt := t.pollCnt + 1 }) with ⟨h, e⟩ | ⟨h, e⟩ | ⟨v, h, e⟩
  · exact .inl ⟨h, e⟩
  · exact .inr (.inl ⟨h, e⟩)
  · refine .inr (.inr ⟨v, h, ?_⟩)
    have e' : s.pollStep = _ := e
    rw [e']
    by_cases hd : doneFlag (statusValue v) = true
    · exact .inl ⟨hd, if_pos hd⟩
    · have hd' : doneFlag (statusValue v) = false := by simpa using hd
      by_cases hl : s.pollCnt + 1 = s.cfg.pollLimit
      · exact .inr (.inl ⟨hd', hl, by rw [if_neg hd]; exact if_pos hl⟩)
      · exact .inr (.inr ⟨hd', hl, by rw [if_neg hd]; exact if_neg hl⟩)

theorem rdInStep_cases (s : State) :
    (s.input.answer = none ∧ s.rdInStep = s) ∨
    (s.input.answer = some .err ∧ s.rdInStep = (s.log (.rIn none)).raise .transportError) ∨
    (∃ v, s.input.answer = some (.ok v) ∧
      s.rdInStep = { s with history := s.history ++ [.rIn (some v)], respWord := v, fsm := .extract }) :=
  memRead_cases s (fun v => v) Event.rIn _

/-- Everything one step of a busy block can do, with every register it writes (R78 to R83, R87, R104 to R106, R108). -/
theorem served_busy_cases (s : State) (i : Instr) (hi : s.fsm ≠ .idle) (h7 : s.fsm ≠ .unused7) :
  (s.fsm = .build ∧ ((∃ f, i.frame s.cfg = some f ∧
        s.served i = { s with cmdWord := f.word, bitLen := f.len, fsm := .wrOut }) ∨
     (i.frame s.cfg = none ∧ s.served i = s.ended .invalidArgument 0))) ∨
  (s.fsm = .extract ∧ s.served i = s.ended .ok (i.keep s.respWord)) ∨
  (s.fsm.accessing = true ∧ s.input.answer = none ∧ s.served i = s) ∨
  (∃ e, s.fsm.accessing = true ∧ s.input.answer = some .err ∧
      e = (match s.fsm with
        | .wrOut => Event.wOut s.cmdWord false
        | .wrCtrl => .wCtrl (ctrlWord s.bitLen) false
        | .poll => .rStatus none
        | _ => .rIn none) ∧
      s.served i = State.ended { s with history := s.history ++ [e] } .transportError 0) ∨
  (∃ v, s.input.answer = some (.ok v) ∧
    ((s.fsm = .wrOut ∧ s.served i = { s with history := s.history ++ [.wOut s.cmdWord true], fsm := .wrCtrl }) ∨
     (s.fsm = .wrCtrl ∧
        s.served i = { s with history := s.history ++ [.wCtrl (ctrlWord s.bitLen) true], pollCnt := 0, fsm := .poll }) ∨
     (s.fsm = .poll ∧ doneFlag (statusValue v) = true ∧
        s.served i = { s with history := s.history ++ [.rStatus (some (statusValue v))], fsm := .rdIn }) ∨
     (s.fsm = .poll ∧ doneFlag (statusValue v) = false ∧ s.pollCnt + 1 = s.cfg.pollLimit ∧
        s.served i = State.ended { s with history := s.history ++ [.rStatus (some (statusValue v))] } .deviceTimeout 0) ∨
     (s.fsm = .poll ∧ doneFlag (statusValue v) = false ∧ s.pollCnt + 1 ≠ s.cfg.pollLimit ∧
        s.served i = { s with history := s.history ++ [.rStatus (some (statusValue v))], pollCnt := s.pollCnt + 1 }) ∨
     (s.fsm = .rdIn ∧ s.served i = { s with history := s.history ++ [.rIn (some v)], respWord := v, fsm := .extract }))) := by
  cases hs : s.fsm with
  | idle => exact absurd hs hi
  | unused7 => exact absurd hs h7
  | build =>
    left; refine ⟨rfl, ?_⟩
    have : s.served i = s.buildStep (i.frame s.cfg) := by simp [State.served, hs]
    rw [this]
    cases hf : i.frame s.cfg with
    | none => exact .inr ⟨rfl, rfl⟩
    | some f => exact .inl ⟨f, rfl, rfl⟩
  | extract =>
    right; left; refine ⟨rfl, ?_⟩
    simp [State.served, hs, State.extractStep, complete_eq_ended]
  | wrOut =>
    have : s.served i = s.wrOutStep := by simp [State.served, hs]
    rw [this]
    rcases wrOutStep_cases s with ⟨a, e⟩ | ⟨a, e⟩ | ⟨v, a, e⟩
    · exact .inr (.inr (.inl ⟨rfl, a, e⟩))
    · exact .inr (.inr (.inr (.inl ⟨_, rfl, a, rfl, by rw [e, raise_eq_ended]; rfl⟩)))
    · exact .inr (.inr (.inr (.inr ⟨v, a, .inl ⟨rfl, e⟩⟩)))
  | wrCtrl =>
    have : s.served i = s.wrCtrlStep := by simp [State.served, hs]
    rw [this]
    rcases wrCtrlStep_cases s with ⟨a, e⟩ | ⟨a, e⟩ | ⟨v, a, e⟩
    · exact .inr (.inr (.inl ⟨rfl, a, e⟩))
    · exact .inr (.inr (.inr (.inl ⟨_, rfl, a, rfl, by rw [e, raise_eq_ended]; rfl⟩)))
    · exact .inr (.inr (.inr (.inr ⟨v, a, .inr (.inl ⟨rfl, e⟩)⟩)))
  | poll =>
    have : s.served i = s.pollStep := by simp [State.served, hs]
    rw [this]
    rcases pollStep_cases s with ⟨a, e⟩ | ⟨a, e⟩ | ⟨v, a, c⟩
    · exact .inr (.inr (.inl ⟨rfl, a, e⟩))
    · exact .inr (.inr (.inr (.inl ⟨_, rfl, a, rfl, by rw [e, raise_eq_ended]; rfl⟩)))
    · refine .inr (.inr (.inr (.inr ⟨v, a, .inr (.inr ?_)⟩)))
      rcases c with ⟨hd, e⟩ | ⟨hd, hl, e⟩ | ⟨hd, hl, e⟩
      · exact .inl ⟨rfl, hd, e⟩
      · exact .inr (.inl ⟨rfl, hd, hl, by rw [e, raise_eq_ended]; rfl⟩)
      · exact .inr (.inr (.inl ⟨rfl, hd, hl, by rw [e]; simp [hs]⟩))
  | rdIn =>
    have : s.served i = s.rdInStep := by simp [State.served, hs]
    rw [this]
    rcases rdInStep_cases s with ⟨a, e⟩ | ⟨a, e⟩ | ⟨v, a, e⟩
    · exact .inr (.inr (.inl ⟨rfl, a, e⟩))
    · exact .inr (.inr (.inr (.inl ⟨_, rfl, a, rfl, by rw [e, raise_eq_ended]; rfl⟩)))
    · exact .inr (.inr (.inr (.inr ⟨v, a, .inr (.inr (.inr (.inr (.inr ⟨rfl, e⟩))))⟩)))

/-- BUILD accepts exactly the well-formed requests (R63, R64). -/
theorem frame_eq_none_iff (p : Params) (i : Instr) : i.frame p = none ↔ i.wf = false := by
  cases i <;> simp [Instr.frame, Instr.wf, addrArg_eq_none_iff, byteArg_eq_none_iff, halfArg_eq_none_iff,
    rawFrame_eq_none_iff, -not_and] <;> try tauto
  all_goals
    rename_i a
    by_cases h : a.addrLegal
    · simp [addrArg_of_legal h] <;> omega
    · simp [(addrArg_eq_none_iff a).2 h] <;> omega

end Machine

end Sys2Proof
end

