-- ==== Sys2Proof/Laws/Encode.lean ====
section
/-! SUPPORT. R68's table of `Encode` on numbers, row by row, and how it meets the packing on words: every operation's frame is
what the table gives for its request. -/

namespace Sys2Proof

open Machine

theorem shiftLeft_or_eq_add {a i b : Nat} (h : b < 2 ^ i) : (a <<< i) ||| b = a * 2 ^ i + b := by
  rw [← Nat.shiftLeft_add_eq_or_of_lt h, Nat.shiftLeft_eq]

/-- The fields of CW40 do not overlap (R67). -/
theorem cw40_fields_or_eq_add {o a d : Nat} (ha : a < 2 ^ 24) (hd : d < 2 ^ 8) :
    (o <<< 32) ||| (a <<< 8) ||| d = o * 2 ^ 32 + a * 2 ^ 8 + d := by
  rw [Nat.or_assoc, shiftLeft_or_eq_add (a := a) hd, shiftLeft_or_eq_add (a := o) (by omega)]; omega

variable (p : Params) (a : Args)

theorem refEncode_readId : refEncode p (encodeRequest (.readId a)) = some (p.opcReadId.toNat <<< 24, 32) := rfl
theorem refEncode_writeEnable : refEncode p (encodeRequest (.writeEnable a)) = some (p.opcWriteEnable.toNat, 8) := rfl
theorem refEncode_writeDisable : refEncode p (encodeRequest (.writeDisable a)) = some (p.opcWriteDisable.toNat, 8) := rfl
theorem refEncode_readStatus : refEncode p (encodeRequest (.readStatus a)) = some (p.opcReadStatus.toNat <<< 8, 16) := rfl
theorem refEncode_writeStatus : refEncode p (encodeRequest (.writeStatus a)) =
    if a.data.toNat ≥ 2 ^ 8 then none else some ((p.opcWriteStatus.toNat <<< 8) ||| a.data.toNat, 16) := rfl
theorem refEncode_eraseSector : refEncode p (encodeRequest (.eraseSector a)) =
    if a.addr.toNat ≥ 2 ^ 24 then none else some ((0xD8 <<< 24) ||| a.addr.toNat, 32) := rfl
theorem refEncode_readSectorLock : refEncode p (encodeRequest (.readSectorLock a)) =
    if a.addr.toNat ≥ 2 ^ 24 then none else some ((p.opcReadLock.toNat <<< 32) ||| (a.addr.toNat <<< 8), 40) := rfl
theorem refEncode_writeSectorLock : refEncode p (encodeRequest (.writeSectorLock a)) =
    if a.addr.toNat ≥ 2 ^ 24 ∨ a.data.toNat ≥ 2 ^ 8 then none
    else some ((p.opcWriteLock.toNat <<< 32) ||| (a.addr.toNat <<< 8) ||| a.data.toNat, 40) := rfl
theorem refEncode_readByte : refEncode p (encodeRequest (.readByte a)) =
    if a.addr.toNat ≥ 2 ^ 24 then none else some ((p.opcRead.toNat <<< 32) ||| (a.addr.toNat <<< 8), 40) := rfl
theorem refEncode_writeByte : refEncode p (encodeRequest (.writeByte a)) =
    if a.addr.toNat ≥ 2 ^ 24 ∨ a.data.toNat ≥ 2 ^ 8 then none
    else some ((p.opcPageProgram.toNat <<< 32) ||| (a.addr.toNat <<< 8) ||| a.data.toNat, 40) := rfl
theorem refEncode_readNonvolatileConfig :
    refEncode p (encodeRequest (.readNonvolatileConfig a)) = some (p.opcReadNvcfg.toNat <<< 16, 24) := rfl
theorem refEncode_writeNonvolatileConfig : refEncode p (encodeRequest (.writeNonvolatileConfig a)) =
    if a.data.toNat ≥ 2 ^ 16 then none else some ((p.opcWriteNvcfg.toNat <<< 16) ||| a.data.toNat, 24) := rfl
theorem refEncode_bulkErase : refEncode p (encodeRequest (.bulkErase a)) = some (p.opcBulkErase.toNat, 8) := rfl
theorem refEncode_transfer : refEncode p (encodeRequest (.transfer a)) =
    if a.len.toNat = 0 ∨ a.len.toNat > W ∨ a.word.toNat ≥ 2 ^ W then none
    else some (a.word.toNat, a.len.toNat) := rfl
theorem refEncode_reservedE : refEncode p (encodeRequest (.reservedE a)) = none := rfl
theorem refEncode_reservedF : refEncode p (encodeRequest (.reservedF a)) = none := rfl

/-- A one-byte data slot keeps the value of a legal argument. -/
theorem byteArg_toNat {a : Args} (h : a.byteLegal) : (a.data.setWidth 8).toNat = a.data.toNat := by
  rw [BitVec.toNat_setWidth, Nat.mod_eq_of_lt h]

theorem halfArg_toNat {a : Args} (h : a.halfLegal) : (a.data.setWidth 16).toNat = a.data.toNat := by
  rw [BitVec.toNat_setWidth, Nat.mod_eq_of_lt h]

theorem addrArg_toNat {a : Args} (h : a.addrLegal) : (a.addr.setWidth 24).toNat = a.addr.toNat := by
  rw [BitVec.toNat_setWidth, Nat.mod_eq_of_lt h]

/-- The CW40 word of a read has a zero data slot (R65, R67). -/
theorem cw40_read_word_toNat {opc : Byte} {a : Args} (h : a.addrLegal) :
    (cw40 opc (a.addr.setWidth 24) 0).word.toNat = (opc.toNat <<< 32) ||| (a.addr.toNat <<< 8) := by
  have e := cw40_fields_or_eq_add (o := opc.toNat) h (show 0 < 2 ^ 8 by decide)
  rw [Nat.or_zero] at e
  rw [cw40_word_toNat, addrArg_toNat h, e]; rfl

/-- The CW40 word of a write carries both arguments (R67). -/
theorem cw40_write_word_toNat {opc : Byte} {a : Args} (h : a.addrLegal) (h' : a.byteLegal) :
    (cw40 opc (a.addr.setWidth 24) (a.data.setWidth 8)).word.toNat =
      (opc.toNat <<< 32) ||| (a.addr.toNat <<< 8) ||| a.data.toNat := by
  rw [cw40_word_toNat, addrArg_toNat h, byteArg_toNat h', cw40_fields_or_eq_add h h']

/-- BUILD's frame of each operation is R68's answer for its request. -/
theorem refEncode_eq_frame (i : Instr) :
    refEncode p (encodeRequest i) = (i.frame p).map fun f => (f.word.toNat, f.len.toNat) := by
  cases i with
  | readId a => rw [refEncode_readId, Instr.frame, Option.map_some, cw32R_word_toNat, cw32R_len, Nat.shiftLeft_eq]
  | writeEnable a => rw [refEncode_writeEnable, Instr.frame, Option.map_some, cw8_word_toNat, cw8_len]
  | writeDisable a => rw [refEncode_writeDisable, Instr.frame, Option.map_some, cw8_word_toNat, cw8_len]
  | bulkErase a => rw [refEncode_bulkErase, Instr.frame, Option.map_some, cw8_word_toNat, cw8_len]
  | readStatus a => rw [refEncode_readStatus, Instr.frame, Option.map_some, cw16_word_toNat, cw16_len, Nat.shiftLeft_eq]; simp
  | readNonvolatileConfig a =>
    rw [refEncode_readNonvolatileConfig, Instr.frame, Option.map_some, cw24_word_toNat, cw24_len, Nat.shiftLeft_eq]; simp
  | writeStatus a =>
    rw [refEncode_writeStatus, Instr.frame]
    by_cases h : a.byteLegal
    · rw [if_neg (by simp only [Args.byteLegal] at h; omega), byteArg_of_legal h, Option.map_some, Option.map_some,
        cw16_word_toNat, cw16_len, byteArg_toNat h, shiftLeft_or_eq_add h]
    · rw [if_pos (by simp only [Args.byteLegal] at h; omega), (byteArg_eq_none_iff a).2 h]; rfl
  | writeNonvolatileConfig a =>
    rw [refEncode_writeNonvolatileConfig, Instr.frame]
    by_cases h : a.halfLegal
    · rw [if_neg (by simp only [Args.halfLegal] at h; omega), halfArg_of_legal h, Option.map_some, Option.map_some,
        cw24_word_toNat, cw24_len, halfArg_toNat h, shiftLeft_or_eq_add h]
    · rw [if_pos (by simp only [Args.halfLegal] at h; omega), (halfArg_eq_none_iff a).2 h]; rfl
  | eraseSector a =>
    rw [refEncode_eraseSector, Instr.frame]
    by_cases h : a.addrLegal
    · rw [if_neg (by simp only [Args.addrLegal] at h; omega), addrArg_of_legal h, Option.map_some, Option.map_some,
        cw32A_word_toNat, cw32A_len, addrArg_toNat h, shiftLeft_or_eq_add h]; rfl
    · rw [if_pos (by simp only [Args.addrLegal] at h; omega), (addrArg_eq_none_iff a).2 h]; rfl
  | readSectorLock a =>
    rw [refEncode_readSectorLock, Instr.frame]
    by_cases h : a.addrLegal
    · rw [if_neg (by simp only [Args.addrLegal] at h; omega), addrArg_of_legal h, Option.map_some, Option.map_some,
        cw40_read_word_toNat h, cw40_len]
    · rw [if_pos (by simp only [Args.addrLegal] at h; omega), (addrArg_eq_none_iff a).2 h]; rfl
  | readByte a =>
    rw [refEncode_readByte, Instr.frame]
    by_cases h : a.addrLegal
    · rw [if_neg (by simp only [Args.addrLegal] at h; omega), addrArg_of_legal h, Option.map_some, Option.map_some,
        cw40_read_word_toNat h, cw40_len]
    · rw [if_pos (by simp only [Args.addrLegal] at h; omega), (addrArg_eq_none_iff a).2 h]; rfl
  | writeSectorLock a =>
    rw [refEncode_writeSectorLock, Instr.frame]
    by_cases h : a.addrLegal
    · by_cases h' : a.byteLegal
      · rw [if_neg (by simp only [Args.addrLegal, Args.byteLegal] at h h'; omega), addrArg_of_legal h, Option.bind_some,
          byteArg_of_legal h', Option.map_some, Option.map_some, cw40_write_word_toNat h h', cw40_len]
      · rw [if_pos (by simp only [Args.byteLegal] at h'; omega), addrArg_of_legal h, Option.bind_some,
          (byteArg_eq_none_iff a).2 h']; rfl
    · rw [if_pos (by simp only [Args.addrLegal] at h; omega), (addrArg_eq_none_iff a).2 h]; rfl
  | writeByte a =>
    rw [refEncode_writeByte, Instr.frame]
    by_cases h : a.addrLegal
    · by_cases h' : a.byteLegal
      · rw [if_neg (by simp only [Args.addrLegal, Args.byteLegal] at h h'; omega), addrArg_of_legal h, Option.bind_some,
          byteArg_of_legal h', Option.map_some, Option.map_some, cw40_write_word_toNat h h', cw40_len]
      · rw [if_pos (by simp only [Args.byteLegal] at h'; omega), addrArg_of_legal h, Option.bind_some,
          (byteArg_eq_none_iff a).2 h']; rfl
    · rw [if_pos (by simp only [Args.addrLegal] at h; omega), (addrArg_eq_none_iff a).2 h]; rfl
  | transfer a =>
    rw [refEncode_transfer, Instr.frame]
    by_cases h : a.lenLegal ∧ a.wordLegal
    · rw [if_neg (by simp only [Args.lenLegal, Args.wordLegal] at h; omega), rawFrame_of_legal h.1 h.2, Option.map_some,
        BitVec.toNat_setWidth, Nat.mod_eq_of_lt h.2]
    · rw [if_pos (by simp only [Args.lenLegal, Args.wordLegal] at h; omega), (rawFrame_eq_none_iff a).2 h]; rfl
  | reservedE a => rfl
  | reservedF a => rfl

/-- Every frame's length is a legal transfer length (R23, R67, R68). -/
theorem frame_len_legal {p : Params} {i : Instr} {f : CmdFrame} (h : i.frame p = some f) :
    1 ≤ f.len.toNat ∧ f.len.toNat ≤ W := by
  cases i with
  | transfer a =>
    simp only [Instr.frame, rawFrame] at h
    split at h
    · cases h
    · cases h; simp only []; omega
  | readId a => cases h; simp [W]
  | writeEnable a => cases h; simp [W]
  | writeDisable a => cases h; simp [W]
  | bulkErase a => cases h; simp [W]
  | readStatus a => cases h; simp [W]
  | readNonvolatileConfig a => cases h; simp [W]
  | writeStatus a => obtain ⟨_, _, rfl⟩ := Option.map_eq_some_iff.1 h; simp [W]
  | writeNonvolatileConfig a => obtain ⟨_, _, rfl⟩ := Option.map_eq_some_iff.1 h; simp [W]
  | eraseSector a => obtain ⟨_, _, rfl⟩ := Option.map_eq_some_iff.1 h; simp [W]
  | readSectorLock a => obtain ⟨_, _, rfl⟩ := Option.map_eq_some_iff.1 h; simp [W]
  | readByte a => obtain ⟨_, _, rfl⟩ := Option.map_eq_some_iff.1 h; simp [W]
  | writeSectorLock a =>
    obtain ⟨_, _, h'⟩ := Option.bind_eq_some_iff.1 h
    obtain ⟨_, _, rfl⟩ := Option.map_eq_some_iff.1 h'; simp [W]
  | writeByte a =>
    obtain ⟨_, _, h'⟩ := Option.bind_eq_some_iff.1 h
    obtain ⟨_, _, rfl⟩ := Option.map_eq_some_iff.1 h'; simp [W]
  | reservedE a => cases h
  | reservedF a => cases h

/-- EXTRACT's extraction of each operation is R69's answer for its selector. -/
theorem refExtract_eq_keep (i : Instr) (v : XWord) :
    refExtract (encodeRequest i).op v.toNat = (i.keep v).toNat := by
  cases i <;> first
    | exact (keepLow8_toNat v).symm
    | exact (keepLow16_toNat v).symm
    | exact (keepLow24_toNat v).symm
    | rfl

end Sys2Proof
end

