-- ==== Sys2Proof/Laws/Step.lean ====
section
/-! SUPPORT. Everything a step can do. -/

namespace Sys2Proof.Machine

theorem fetch_idle {s : State} (h : s.fsm = .idle) : s.fetch = s.input.request := by simp [State.fetch, h]

theorem fetch_busy {s : State} (h : s.fsm ≠ .idle) : s.fetch = some s.latched := by
  unfold State.fetch; split <;> simp_all

/-- In each state but 7: reset, else nothing in IDLE without a request, else the operation at hand (R75 to R77, R119). -/
theorem step_eq {s : State} (h : s.fsm ≠ .unused7) :
    step s = if s.input.rst then .next s.resetBlock.tick
      else match s.fetch with
        | none => .next s.tick
        | some r => .next (s.served (decodeRequest r)).tick := by
  unfold step
  split
  · contradiction
  · split
    · rfl
    · cases s.fetch with
      | none => rfl
      | some r => simp [exec_eq, h, afterTick]

theorem step_refused {s : State} (h : s.fsm = .unused7) : step s = .refused .unreachableFsm := by
  unfold step; rw [h]

/-- Everything a step that answers a next state can have done. -/
theorem step_next_cases {s t : State} (h : step s = .next t) :
    s.fsm ≠ .unused7 ∧
    ((s.input.rst = true ∧ t = s.resetBlock.tick) ∨
     (s.input.rst = false ∧ s.fsm = .idle ∧ s.input.request = none ∧ t = s.tick) ∨
     (∃ r, s.input.rst = false ∧ s.fsm = .idle ∧ s.input.request = some r ∧
        t = (s.accept r).tick) ∨
     (s.input.rst = false ∧ s.fsm ≠ .idle ∧ t = (s.served (decodeRequest s.latched)).tick)) := by
  by_cases h7 : s.fsm = .unused7
  · rw [step_refused h7] at h; cases h
  refine ⟨h7, ?_⟩
  rw [step_eq h7] at h
  by_cases hr : s.input.rst = true
  · simp only [hr, if_true] at h; cases h; exact .inl ⟨hr, rfl⟩
  have hr' : s.input.rst = false := by simpa using hr
  simp only [hr', Bool.false_eq_true, if_false] at h
  by_cases hi : s.fsm = .idle
  · rw [fetch_idle hi] at h
    cases hq : s.input.request with
    | none => rw [hq] at h; cases h; exact .inr (.inl ⟨hr', hi, rfl, rfl⟩)
    | some r => rw [hq] at h; cases h; exact .inr (.inr (.inl ⟨r, hr', hi, rfl, by simp [State.served, hi]⟩))
  · rw [fetch_busy hi] at h; cases h; exact .inr (.inr (.inr ⟨hr', hi, rfl⟩))

theorem step_idle_offered {s : State} {r : Request} (hi : s.fsm = .idle) (hr : s.input.rst = false)
    (hq : s.input.request = some r) : step s = .next (s.accept r).tick := by
  rw [step_eq (by simp [hi])]; simp [hr, fetch_idle hi, hq, State.served, hi]

theorem step_busy {s : State} (hi : s.fsm ≠ .idle) (h7 : s.fsm ≠ .unused7) (hr : s.input.rst = false) :
    step s = .next (s.served (decodeRequest s.latched)).tick := by
  rw [step_eq h7]; simp [hr, fetch_busy hi]

/-- A run of one more step starts with a step. -/
theorem run_succ {s t : State} (h : step s = .next t) (n : Nat) :
    Sys2Proof.core.run (n + 1) s = Sys2Proof.core.run n t := by
  simp only [Host.Core.run, show Sys2Proof.core.step s = .next t from h]

@[simp] theorem run_zero (s : State) : Sys2Proof.core.run 0 s = .next s := rfl

end Sys2Proof.Machine
end

