-- ==== Sys2Proof/Laws/Environment.lean ====
section
/-! SUPPORT. What each access of a history does to the SPI master's side, what a transaction's accesses do together, and when a
step meets the environment contract. -/

namespace Sys2Proof.Machine

theorem ctrlLenField_ctrlWord (l : BitLen) : ctrlLenField (ctrlWord l) = l.toNat := by revert l; decide
theorem ctrlStartFlag_ctrlWord (l : BitLen) : ctrlStartFlag (ctrlWord l) = true := by revert l; decide

@[simp] theorem wireOf_nil : wireOf [] = .atStart := rfl

theorem wireOf_append (h h' : List Event) : wireOf (h ++ h') = h'.foldl Wire.after (wireOf h) := by
  simp [wireOf, List.foldl_append]

@[simp] theorem after_wOut_ok (x : Wire) (v : XWord) : x.after (.wOut v true) = { x with out := some v } := rfl
@[simp] theorem after_wOut_err (x : Wire) (v : XWord) : x.after (.wOut v false) = { x with out := none } := rfl
@[simp] theorem after_wCtrl_err (x : Wire) (c : RegWord) : x.after (.wCtrl c false) = { x with ctrl := none } := rfl
@[simp] theorem after_rStatus_ok (x : Wire) (v : RegWord) :
    x.after (.rStatus (some v)) = { x with polls := x.polls + 1, done := doneFlag v } := rfl
@[simp] theorem after_rStatus_err (x : Wire) : x.after (.rStatus none) = x := rfl
@[simp] theorem after_rIn (x : Wire) (v : Option XWord) : x.after (.rIn v) = x := by cases v <;> rfl

/-- The control word that the block writes starts a transfer of its length with the word in OUT (R31, R41). -/
@[simp] theorem after_ctrlWord (x : Wire) (l : BitLen) : x.after (.wCtrl (ctrlWord l) true) =
    { x with ctrl := some (ctrlWord l), started := x.started ++ [⟨l.toNat, x.out⟩], polls := 0, done := false } := by
  simp [Wire.after, ctrlLenField_ctrlWord, ctrlStartFlag_ctrlWord]

/-- After the two writes that open a transaction's accesses (R79, R80). -/
theorem wireOf_started (h : List Event) (s : State) : wireOf (h ++ s.started) =
    ⟨some s.cmdWord, some (ctrlWord s.bitLen), (wireOf h).started ++ [⟨s.bitLen.toNat, some s.cmdWord⟩], 0, false⟩ := by
  rw [wireOf_append]; simp [State.started]

/-- STATUS reads change only what is known of the reads (R41). -/
theorem after_statusReads (vs : List RegWord) (x : Wire) : (statusReads vs).foldl Wire.after x =
    { x with polls := x.polls + vs.length, done := if h : vs = [] then x.done else doneFlag (vs.getLast h) } := by
  induction vs generalizing x with
  | nil => simp [statusReads]
  | cons v vs ih =>
    change List.foldl Wire.after (x.after (.rStatus (some v))) (statusReads vs) = _
    rw [ih]
    cases vs <;> simp [Nat.add_assoc, Nat.add_comm]

/-! ## Steps that meet the contract -/

/-- A step that reads neither STATUS nor IN meets it. -/
theorem meetsContract_of_no_read {draws : Nat → TransferDraw} {s : State} (hp : s.fsm ≠ .poll) (hr : s.fsm ≠ .rdIn) :
    s.meetsContract draws :=
  fun _ => ⟨fun _ h => absurd h hp, fun _ _ h => absurd h hr⟩

theorem meetsContract_poll {draws : Nat → TransferDraw} {s : State} {v : XWord} (hf : s.fsm = .poll)
    (ha : s.input.answer = some (.ok v))
    (hd : doneFlag (statusValue v) = (s.draw draws).over (wireOf s.history).polls) : s.meetsContract draws := by
  refine fun _ => ⟨fun u _ hu => ?_, fun _ _ h => ?_⟩
  · rw [ha] at hu; cases hu; exact hd
  · rw [hf] at h; cases h

theorem meetsContract_rdIn {draws : Nat → TransferDraw} {s : State} {v : XWord} {x : SpiTransfer} (hf : s.fsm = .rdIn)
    (ha : s.input.answer = some (.ok v)) (hx : (wireOf s.history).started.getLast? = some x)
    (hv : inboundContract x.len (s.draw draws).received v) : s.meetsContract draws := by
  refine fun _ => ⟨fun _ h => ?_, fun u y _ hu _ hy => ?_⟩
  · rw [hf] at h; cases h
  · rw [ha] at hu; cases hu; rw [hx] at hy; cases hy; exact hv

/-! ## Runs up to the first return to IDLE -/

theorem untilIdle_next {P : State → Prop} {n : Nat} {s t : State} (hs : P s) (h : step s = .next t)
    (ht : untilIdle P n t) : untilIdle P (n + 1) s :=
  ⟨hs, fun u hu _ => by rw [h] at hu; cases hu; exact ht⟩

theorem untilIdle_last {P : State → Prop} {n : Nat} {s t : State} (hs : P s) (h : step s = .next t)
    (ht : t.fsm = .idle) : untilIdle P (n + 1) s :=
  ⟨hs, fun u hu hi => by rw [h] at hu; cases hu; exact absurd ht hi⟩

theorem untilIdle_tail {P : State → Prop} {n : Nat} {s t : State} (u : untilIdle P (n + 1) s) (h : step s = .next t)
    (ht : t.fsm ≠ .idle) : untilIdle P n t := u.2 t h ht

theorem untilIdle_mono {P : State → Prop} {n m : Nat} {s : State} (h : m ≤ n) (u : untilIdle P n s) : untilIdle P m s := by
  induction n generalizing m s with
  | zero => rw [Nat.le_zero.1 h]; trivial
  | succ n ih =>
    cases m with
    | zero => trivial
    | succ m => exact ⟨u.1, fun t a b => ih (by omega) (u.2 t a b)⟩

end Sys2Proof.Machine
end

