-- ==== Sys2Proof/Laws/PerInstr.lean ====
section
/-! SUPPORT. Statements about every operation as syntax, one lemma per constructor. `Selector`: the low four bits of an
operation's packed request are its row's OPSEL (R61, R62). -/

namespace Sys2Proof.Laws.Selector

/-- The OPSEL of each row of opcode_table.json. -/
def opsel : Instr → OpSel
  | .readId _ => 0x0
  | .writeEnable _ => 0x1
  | .writeDisable _ => 0x2
  | .readStatus _ => 0x3
  | .writeStatus _ => 0x4
  | .eraseSector _ => 0x5
  | .readSectorLock _ => 0x6
  | .writeSectorLock _ => 0x7
  | .readByte _ => 0x8
  | .writeByte _ => 0x9
  | .readNonvolatileConfig _ => 0xA
  | .writeNonvolatileConfig _ => 0xB
  | .bulkErase _ => 0xC
  | .transfer _ => 0xD
  | .reservedE _ => 0xE
  | .reservedF _ => 0xF

def Statement (i : Instr) : Prop := (encode i).extractLsb' 0 4 = opsel i

theorem readId (a : Args) : Statement (.readId a) := pack_low4 _
theorem writeEnable (a : Args) : Statement (.writeEnable a) := pack_low4 _
theorem writeDisable (a : Args) : Statement (.writeDisable a) := pack_low4 _
theorem readStatus (a : Args) : Statement (.readStatus a) := pack_low4 _
theorem writeStatus (a : Args) : Statement (.writeStatus a) := pack_low4 _
theorem eraseSector (a : Args) : Statement (.eraseSector a) := pack_low4 _
theorem readSectorLock (a : Args) : Statement (.readSectorLock a) := pack_low4 _
theorem writeSectorLock (a : Args) : Statement (.writeSectorLock a) := pack_low4 _
theorem readByte (a : Args) : Statement (.readByte a) := pack_low4 _
theorem writeByte (a : Args) : Statement (.writeByte a) := pack_low4 _
theorem readNonvolatileConfig (a : Args) : Statement (.readNonvolatileConfig a) := pack_low4 _
theorem writeNonvolatileConfig (a : Args) : Statement (.writeNonvolatileConfig a) := pack_low4 _
theorem bulkErase (a : Args) : Statement (.bulkErase a) := pack_low4 _
theorem transfer (a : Args) : Statement (.transfer a) := pack_low4 _
theorem reservedE (a : Args) : Statement (.reservedE a) := pack_low4 _
theorem reservedF (a : Args) : Statement (.reservedF a) := pack_low4 _

end Sys2Proof.Laws.Selector
end

