-- ==== Sys2Proof/Tests/Slice0.lean ====
section
/-! SUPPORT. The model's own tests: what the syntax check refuses, requests written out from the spec's encoding, one step on
the spec's vectors (95_test_vectors.md, with its reference opcodes), and for every statement with hypotheses a state that meets
them. -/

namespace Sys2Proof.Tests

open Sys2Proof.Machine

/-! ## WellFormed: an ill-formed term for each check of R64 and R63 -/

def addrBad : Args := { Args.none with addr := 0x1000000 }
def addrTop : Args := { Args.none with addr := 0xFFFFFF }
def dataIs (d : BitVec 32) : Args := { Args.none with data := d }
def frameIs (l : BitLen) (w : BitVec 64) : Args := { Args.none with len := l, word := w }

theorem test_wf_erase_sector_addr : (Instr.eraseSector addrBad).wf = false := by decide
theorem test_wf_read_sector_lock_addr : (Instr.readSectorLock addrBad).wf = false := by decide
theorem test_wf_write_sector_lock_addr : (Instr.writeSectorLock addrBad).wf = false := by decide
theorem test_wf_read_byte_addr : (Instr.readByte addrBad).wf = false := by decide
theorem test_wf_write_byte_addr : (Instr.writeByte addrBad).wf = false := by decide
theorem test_wf_write_status_data : (Instr.writeStatus (dataIs 0x100)).wf = false := by decide
theorem test_wf_write_sector_lock_data : (Instr.writeSectorLock (dataIs 0x100)).wf = false := by decide
theorem test_wf_write_byte_data : (Instr.writeByte (dataIs 0x100)).wf = false := by decide
theorem test_wf_write_nonvolatile_config_data : (Instr.writeNonvolatileConfig (dataIs 0x10000)).wf = false := by decide
theorem test_wf_transfer_len_zero : (Instr.transfer (frameIs 0 0)).wf = false := by decide
theorem test_wf_transfer_len_over : (Instr.transfer (frameIs 41 0)).wf = false := by decide
theorem test_wf_transfer_word : (Instr.transfer (frameIs 40 0x10000000000)).wf = false := by decide
theorem test_wf_reserved : (Instr.reservedE Args.none).wf = false ∧ (Instr.reservedF Args.none).wf = false := by decide
/-- The greatest legal values are accepted. -/
theorem test_wf_bounds : (Instr.writeByte { addrTop with data := 0xFF }).wf = true ∧
    (Instr.writeNonvolatileConfig (dataIs 0xFFFF)).wf = true ∧
    (Instr.transfer (frameIs 40 0xFFFFFFFFFF)).wf = true ∧ (Instr.transfer (frameIs 1 0)).wf = true := by decide
/-- A field the operation does not use is not checked (R65). -/
theorem test_wf_unused : (Instr.readStatus (dataIs 0xFFFFFFFF)).wf = true ∧ (Instr.readId addrBad).wf = true := by decide

/-! ## Decoding: packed requests of 95_test_vectors.md part 3, the others written out by R61 and R62 -/

theorem test_decode_read_id : decode 0x0 = .ok (.readId Args.none) := by decide
theorem test_decode_write_enable : decode 0x1 = .ok (.writeEnable Args.none) := by decide
theorem test_decode_write_disable : decode 0x2 = .ok (.writeDisable Args.none) := by decide
theorem test_decode_read_status : decode 0x3 = .ok (.readStatus Args.none) := by decide
theorem test_decode_write_status : decode 0x1C000000004 = .ok (.writeStatus (dataIs 0x1C)) := by decide
theorem test_decode_erase_sector :
    decode 0x00000000000000000000000000000010005 = .ok (.eraseSector { Args.none with addr := 0x001000 }) := by decide
theorem test_decode_erase_sector_over :
    decode 0x00000000000000000000000000010000005 = .ok (.eraseSector addrBad) := by decide
theorem test_decode_read_sector_lock : decode 0x6 = .ok (.readSectorLock Args.none) := by decide
theorem test_decode_write_sector_lock :
    decode 0x000000000000000000000000FF000000007 = .ok (.writeSectorLock (dataIs 0xFF)) := by decide
theorem test_decode_read_byte :
    decode 0x00000000000000000000000000000010008 = .ok (.readByte { Args.none with addr := 0x001000 }) := by decide
theorem test_decode_write_byte :
    decode 0x0000000000000000000000005A000010009 =
      .ok (.writeByte { Args.none with addr := 0x001000, data := 0x5A }) := by decide
theorem test_decode_read_nonvolatile_config : decode 0xA = .ok (.readNonvolatileConfig Args.none) := by decide
theorem test_decode_write_nonvolatile_config :
    decode 0x0000000000000000000000FFEF00000000B = .ok (.writeNonvolatileConfig (dataIs 0xFFEF)) := by decide
theorem test_decode_bulk_erase : decode 0xC = .ok (.bulkErase Args.none) := by decide
theorem test_decode_transfer :
    decode 0x0000000000000006080000000000000000D = .ok (.transfer (frameIs 8 0x06)) := by decide
theorem test_decode_transfer_len :
    decode 0x0000000000000000290000000000000000D = .ok (.transfer (frameIs 41 0)) := by decide
theorem test_decode_reserved :
    decode 0xE = .ok (.reservedE Args.none) ∧ decode 0xF = .ok (.reservedF Args.none) := by decide
/-- Every bit of REQ set, and the first number that is no request. -/
theorem test_decode_bounds : decode (2 ^ 140 - 1) =
      .ok (.reservedF ⟨0xFFFFFFFF, 0xFFFFFFFF, 0xFF, 0xFFFFFFFFFFFFFFFF⟩) ∧
    decode (2 ^ 140) = .error .beyondReq := by decide
theorem test_encode_write_byte :
    encode (.writeByte { Args.none with addr := 0x001000, data := 0x5A }) = 0x0000000000000000000000005A000010009 := by decide

/-! ## One step -/

/-- The state after an outcome, if there is one. -/
def nextOf : Host.Outcome State Fault Refusal → Option State
  | .next t => some t
  | .fault _ => none
  | .refused _ => none

/-- A block with the reference opcodes and POLL_LIMIT `p`, in state `f`, with the inputs `xs` to come. -/
def block (p : BitVec 32) (f : Fsm) (xs : List EnvInput) : State :=
  { State.reset with cfg := Config.reference p, fsm := f, inputs := xs }

def offered (r : Request) : EnvInput := ⟨false, some r, none⟩
def answers (v : XWord) : EnvInput := ⟨false, none, some (.ok v)⟩
def answersErr : EnvInput := ⟨false, none, some .err⟩
def resets : EnvInput := ⟨true, none, none⟩
def quiet : EnvInput := ⟨false, none, none⟩

/-- What BUILD puts into the command registers. -/
def built (i : Instr) : Option (Fsm × XWord × BitLen) :=
  (nextOf (exec i (block 4 .build []))).map fun t => (t.fsm, t.cmdWord, t.bitLen)

/-- What EXTRACT shows upstream when IN was `v`. -/
def extracted (i : Instr) (v : XWord) : Option Outputs :=
  (nextOf (exec i { block 4 .extract [] with respWord := v })).map State.outputs

def shows (v : XWord) : Option Outputs := some ⟨true, false, true, 0, v⟩

theorem test_read_id_build : built (.readId addrTop) = some (.wrOut, 0x009F000000, 32) := by decide
theorem test_read_id_extract : extracted (.readId Args.none) 0xFFFFFFFFFF = shows 0xFFFFFF := by decide
theorem test_write_enable_build : built (.writeEnable Args.none) = some (.wrOut, 0x0000000006, 8) := by decide
theorem test_write_enable_extract : extracted (.writeEnable Args.none) 0xFFFFFFFFFF = shows 0 := by decide
theorem test_write_disable_build : built (.writeDisable Args.none) = some (.wrOut, 0x0000000004, 8) := by decide
theorem test_write_disable_extract : extracted (.writeDisable Args.none) 0xFFFFFFFFFF = shows 0 := by decide
theorem test_read_status_build : built (.readStatus (dataIs 0x77)) = some (.wrOut, 0x0000000500, 16) := by decide
theorem test_read_status_extract : extracted (.readStatus Args.none) 0xABCD = shows 0xCD := by decide
theorem test_write_status_build : built (.writeStatus (dataIs 0x1C)) = some (.wrOut, 0x000000011C, 16) := by decide
theorem test_write_status_extract : extracted (.writeStatus (dataIs 0x1C)) 0xFFFFFFFFFF = shows 0 := by decide
theorem test_erase_sector_build :
    built (.eraseSector { Args.none with addr := 0x001000 }) = some (.wrOut, 0x00D8001000, 32) := by decide
theorem test_erase_sector_extract : extracted (.eraseSector addrTop) 0xFFFFFFFFFF = shows 0 := by decide
theorem test_read_sector_lock_build :
    built (.readSectorLock { Args.none with addr := 0x010000 }) = some (.wrOut, 0xE801000000, 40) := by decide
theorem test_read_sector_lock_extract : extracted (.readSectorLock Args.none) 0x00000000FF = shows 0xFF := by decide
theorem test_write_sector_lock_build :
    built (.writeSectorLock { addrTop with data := 0xFF }) = some (.wrOut, 0xE5FFFFFFFF, 40) := by decide
theorem test_write_sector_lock_extract : extracted (.writeSectorLock Args.none) 0xFFFFFFFFFF = shows 0 := by decide
theorem test_read_byte_build :
    built (.readByte { Args.none with addr := 0x123456, data := 0x77 }) = some (.wrOut, 0x0312345600, 40) := by decide
theorem test_read_byte_extract : extracted (.readByte addrTop) 0xFFFFFFFF3C = shows 0x3C := by decide
theorem test_write_byte_build :
    built (.writeByte { addrTop with data := 0x5A }) = some (.wrOut, 0x02FFFFFF5A, 40) := by decide
theorem test_write_byte_extract : extracted (.writeByte Args.none) 0xFFFFFFFFFF = shows 0 := by decide
theorem test_read_nonvolatile_config_build :
    built (.readNonvolatileConfig Args.none) = some (.wrOut, 0x0000B50000, 24) := by decide
theorem test_read_nonvolatile_config_extract :
    extracted (.readNonvolatileConfig Args.none) 0x12FFFF = shows 0xFFFF := by decide
theorem test_write_nonvolatile_config_build :
    built (.writeNonvolatileConfig (dataIs 0xFFEF)) = some (.wrOut, 0x0000B1FFEF, 24) := by decide
theorem test_write_nonvolatile_config_extract :
    extracted (.writeNonvolatileConfig Args.none) 0xFFFFFFFFFF = shows 0 := by decide
theorem test_bulk_erase_build : built (.bulkErase Args.none) = some (.wrOut, 0x00000000C7, 8) := by decide
theorem test_bulk_erase_extract : extracted (.bulkErase Args.none) 0xFFFFFFFFFF = shows 0 := by decide
theorem test_transfer_build : built (.transfer (frameIs 16 0xAB0500)) = some (.wrOut, 0x0000AB0500, 16) := by decide
theorem test_transfer_extract : extracted (.transfer (frameIs 8 6)) 0xFFFFFFFF00 = shows 0xFFFFFFFF00 := by decide
/-- Section 2.3: a reserved selector writes no command register and ends with code 1. -/
theorem test_reserved_build : built (.reservedE Args.none) = some (.idle, 0, 0) ∧
    built (.reservedF Args.none) = some (.idle, 0, 0) := by decide
/-- The third row of section 2.2: the SPI master sends only 0x0500 of the word. -/
theorem test_transfer_sent : sentBits 16 0xAB0500 = sentBits 16 0x000500 ∧
    bitsValue (sentBits 16 0xAB0500) = 0x0500 := by decide

/-- R41, R50: a later OUT write does not change what an earlier transfer sent, and starts none; the next CTRL write sends it. -/
theorem test_wire_order :
    (wireOf [.wOut 0x06 true, .wCtrl 0x00000801 true, .wOut 0x9F000000 true]).started = [⟨8, some 0x06⟩] ∧
    (wireOf [.wOut 0x06 true, .wCtrl 0x00000801 true, .wOut 0x04 false, .wCtrl 0x00001001 true]).started =
      [⟨8, some 0x06⟩, ⟨16, none⟩] ∧
    (SpiTransfer.sent ⟨8, some 0x06⟩).map bitsValue = some 0x06 := by decide
/-- R53, R54: reads are counted from the CTRL write, and a read of IN changes nothing. -/
theorem test_wire_reads :
    wireOf [.rStatus (some 1), .wOut 0x06 true, .wCtrl 0x00000801 true, .rStatus (some 0), .rStatus (some 3), .rIn (some 7)] =
      ⟨some 0x06, some 0x00000801, [⟨8, some 0x06⟩], 2, true⟩ := by decide
/-- R53: a set flag on the first read is stale if this transfer's own draw shows its end only after one read (R127). -/
theorem test_stale_done : TransferDraw.over ⟨some 1, []⟩ 0 = false ∧ TransferDraw.over ⟨some 1, []⟩ 1 = true ∧
    TransferDraw.over ⟨none, []⟩ 1000 = false := by decide

/-- A request placed by the host's function is the one accepted first after reset. -/
theorem test_fetch_word : decodeTableWord 8 0x5 = some (.eraseSector Args.none) ∧
    (nextOf (step (State.reset.withFetchWord 8 0x5))).map (fun t => (t.fsm, t.reqOp)) = some (.build, 0x5) := ⟨rfl, rfl⟩

/-- Vector H1. -/
theorem test_step_idle : (nextOf (step { block 4 .idle [] with resValid := true, resValue := 0x5A })).map
    (fun t => (t.fsm, t.outputs)) = some (.idle, ⟨true, false, true, 0, 0x5A⟩) := by decide
/-- Vector H2. -/
theorem test_step_accept : (nextOf (step { block 4 .idle [offered (Args.none.request 0x3)] with
      resValid := true, resValue := 0x5A })).map (fun t => (t.fsm, t.reqOp, t.outputs, t.history)) =
    some (.build, 0x3, ⟨false, true, false, 0, 0⟩, []) := by decide
/-- Vector H3: the offered request is not accepted and the POLL rule applies. -/
theorem test_step_busy : (nextOf (step { block 4 .poll [⟨false, some (Args.none.request 0x1), some (.ok 0)⟩] with
      reqOp := 0x3 })).map (fun t => (t.fsm, t.reqOp, t.pollCnt)) = some (.poll, 0x3, 1) := by decide
/-- Vector H4. -/
theorem test_step_invalid : (nextOf (step { block 4 .build [] with reqOp := 0x4, reqData := 0x100 })).map
    (fun t => (t.outputs, t.cmdWord, t.bitLen, t.envIndeterminate)) =
    some (⟨true, false, true, 1, 0⟩, 0, 0, false) := by decide
/-- Vector H5. -/
theorem test_step_reset : (nextOf (step { block 4 .poll [resets] with cmdWord := 0x9F000000, reqOp := 0x1 })).map
    (fun t => (t.outputs, t.cmdWord, t.reqOp, t.envIndeterminate)) =
    some (⟨true, false, false, 0, 0⟩, 0, 0, true) := by decide
/-- Vector T5. -/
theorem test_step_err_out : (nextOf (step { block 4 .wrOut [answersErr] with cmdWord := 6, bitLen := 8 })).map
    (fun t => (t.outputs, t.history, t.envIndeterminate)) =
    some (⟨true, false, true, 3, 0⟩, [.wOut 6 false], true) := by decide
/-- Vector T6. -/
theorem test_step_err_ctrl : (nextOf (step { block 4 .wrCtrl [answersErr] with cmdWord := 6, bitLen := 8 })).map
    (fun t => (t.outputs, t.history, t.envIndeterminate)) =
    some (⟨true, false, true, 3, 0⟩, [.wCtrl 0x00000801 false], true) := by decide
/-- Vector T3: POLL_LIMIT = 1. -/
theorem test_step_timeout : (nextOf (step (block 1 .poll [answers 0]))).map
    (fun t => (t.outputs, t.history, t.envIndeterminate)) =
    some (⟨true, false, true, 2, 0⟩, [.rStatus (some 0)], true) := by decide
/-- Vector T4: the done flag on the last allowed read. -/
theorem test_step_last_done : (nextOf (step (block 1 .poll [answers 1]))).map
    (fun t => (t.fsm, t.resValid)) = some (.rdIn, false) := by decide
/-- Vector T7: `Err` on the last allowed read. -/
theorem test_step_last_err : (nextOf (step { block 3 .poll [answersErr] with pollCnt := 2 })).map
    (fun t => (t.outputs, t.history)) = some (⟨true, false, true, 3, 0⟩, [.rStatus none]) := by decide
/-- Vector T9: bits of STATUS other than bit 0 are ignored. -/
theorem test_step_status_bits :
    (nextOf (step (block 4 .poll [answers 0xFFFFFFFE]))).map (fun t => (t.fsm, t.pollCnt)) = some (.poll, 1) ∧
    (nextOf (step (block 4 .poll [answers 0x3]))).map (fun t => (t.fsm, t.pollCnt)) = some (.rdIn, 0) := by decide
/-- Vector T8. -/
theorem test_step_err_in : (nextOf (step (block 4 .rdIn [answersErr]))).map
    (fun t => (t.outputs, t.history)) = some (⟨true, false, true, 3, 0⟩, [.rIn none]) := by decide
/-- R16, R84. -/
theorem test_step_seven : step (block 4 .unused7 [resets]) = .refused .unreachableFsm := rfl
/-- The encoding of `fsm` (R16). -/
theorem test_fsm_code : [Fsm.idle, .build, .wrOut, .wrCtrl, .poll, .rdIn, .extract, .unused7].map Fsm.code =
    [0, 1, 2, 3, 4, 5, 6, 7] := by decide

/-! ## Witnesses: states that meet the hypotheses of the statements -/

/-- A block in `f` that serves `i`. -/
def serving (i : Instr) (f : Fsm) (xs : List EnvInput) : State := (block 4 f xs).latching (encodeRequest i)

theorem wit_step_runs_offered : ∃ (s : State) (w : BitVec 140) (i : Instr), decode w.toNat = .ok i ∧ s.input.rst = false ∧
    s.fsm = .idle ∧ s.input.request = some (Request.unpack w) :=
  ⟨block 4 .idle [offered (Request.unpack 5)], 5, .eraseSector Args.none, by decide⟩
theorem wit_step_runs_latched : ∃ (s : State) (w : BitVec 140) (i : Instr), decode w.toNat = .ok i ∧ s.input.rst = false ∧
    s.fsm ≠ .idle ∧ s.latched = Request.unpack w :=
  ⟨serving (.eraseSector Args.none) .build [], 5, .eraseSector Args.none, by decide⟩
theorem wit_step_refuses : ∃ (s : State) (i : Instr), s.input.rst = false ∧ s.fsm ≠ .idle ∧
    s.latched = Request.unpack 5 ∧ exec i s = .refused .unreachableFsm :=
  ⟨serving (.eraseSector Args.none) .unused7 [], .eraseSector Args.none, by decide, by decide, by decide, rfl⟩
theorem wit_fetch_word : decodeTableWord 8 0xF = some (.reservedF Args.none) := by decide
theorem wit_idle : ∃ s : State, s.fsm = .idle ∧ s.input.rst = false ∧ s.input.request = none :=
  ⟨block 4 .idle [answers 1], by decide⟩
theorem wit_accept : ∃ (s : State) (r : Request), s.fsm = .idle ∧ s.input.rst = false ∧ s.input.request = some r :=
  ⟨block 4 .idle [offered (Args.none.request 0xF)], Args.none.request 0xF, by decide⟩
theorem wit_busy : ∃ s : State, s.fsm ≠ .idle ∧ s.input.request = some (Args.none.request 1) :=
  ⟨block 4 .wrOut [offered (Args.none.request 1)], by decide⟩
theorem wit_build_invalid : ∃ s : State, s.fsm = .build ∧ s.input.rst = false ∧ refEncode s.cfg s.latched = none :=
  ⟨serving (.writeStatus (dataIs 0x100)) .build [], by decide⟩
theorem wit_build_valid : ∃ s : State, s.fsm = .build ∧ s.input.rst = false ∧
    refEncode s.cfg s.latched = some (0xE5FFFFFFFF, 40) :=
  ⟨serving (.writeSectorLock { addrTop with data := 0xFF }) .build [], by decide⟩
theorem wit_build_wf : ∃ (i j : Instr) (s : State), s.fsm = .build ∧ i.wf = false ∧ j.wf = true :=
  ⟨.readByte addrBad, .readByte addrTop, block 4 .build [], by decide⟩
theorem wit_unused_fields : ∃ (i j : Instr) (s : State), i.usedOnly = j.usedOnly ∧ i ≠ j ∧ s.fsm ≠ .idle :=
  ⟨.readByte (dataIs 1), .readByte (dataIs 2), block 4 .build [], by decide⟩
theorem wit_packing_with_addr : ∃ (i : Instr) (s : State) (p : Packing), i.wf = true ∧ i.packing s.cfg = some p ∧
    s.fsm = .build ∧ p.addr = some 0xFFFFFF ∧ p.data = 0xFF :=
  ⟨.writeByte { addrTop with data := 0xFF }, block 4 .build [], ⟨0x02, 40, some 0xFFFFFF, 0xFF⟩, by decide⟩
theorem wit_packing_without_addr : ∃ (i : Instr) (s : State) (p : Packing), i.wf = true ∧ i.packing s.cfg = some p ∧
    s.fsm = .build ∧ p.addr = none ∧ p.data = 0xFFFF :=
  ⟨.writeNonvolatileConfig (dataIs 0xFFFF), block 4 .build [], ⟨0xB1, 24, none, 0xFFFF⟩, by decide⟩
theorem wit_ctrl_write : ∃ (s t s' t' : State), step s = .next t ∧ t.history = s.history ++ [.wCtrl 0x2801 true] ∧
    step s' = .next t' ∧ t'.history = s'.history ++ [.wCtrl 0x2801 false] :=
  ⟨{ block 4 .wrCtrl [answers 0] with bitLen := 40 }, _, { block 4 .wrCtrl [answersErr] with bitLen := 40 }, _,
    rfl, rfl, rfl, rfl⟩
theorem wit_access_ok : ∀ f ∈ [Fsm.wrOut, .wrCtrl, .poll, .rdIn],
    ∃ s : State, s.fsm = f ∧ s.input.answer = some (.ok 0xFFFFFFFFFF) :=
  fun f _ => ⟨block 4 f [answers 0xFFFFFFFFFF], rfl, rfl⟩
theorem wit_access_err : ∀ f ∈ [Fsm.wrOut, .wrCtrl, .poll, .rdIn], ∃ s : State, s.fsm = f ∧ s.input.answer = some .err :=
  fun f _ => ⟨block 4 f [answersErr], rfl, rfl⟩
theorem wit_access_unanswered : ∀ f ∈ [Fsm.wrOut, .wrCtrl, .poll, .rdIn],
    ∃ s : State, s.fsm = f ∧ s.fsm.accessing = true ∧ s.input.answer = none ∧ s.input.rst = false := by
  intro f hf
  refine ⟨block 4 f [], rfl, ?_, rfl, rfl⟩
  revert f; decide
theorem wit_poll_done : ∃ (s : State) (v : XWord), s.fsm = .poll ∧ s.input.answer = some (.ok v) ∧
    (v.setWidth 32).getLsbD 0 = true := ⟨block 4 .poll [answers 1], 1, by decide⟩
theorem wit_poll_limit : ∃ (s : State) (v : XWord), s.fsm = .poll ∧ s.input.answer = some (.ok v) ∧
    (v.setWidth 32).getLsbD 0 = false ∧ s.pollCnt + 1 = s.cfg.pollLimit :=
  ⟨{ block 4 .poll [answers 0xFFFFFFFE] with pollCnt := 3 }, 0xFFFFFFFE, by decide⟩
theorem wit_poll_again : ∃ (s : State) (v : XWord), s.fsm = .poll ∧ s.input.answer = some (.ok v) ∧
    (v.setWidth 32).getLsbD 0 = false ∧ s.pollCnt + 1 ≠ s.cfg.pollLimit :=
  ⟨{ block 4 .poll [answers 0] with pollCnt := 2 }, 0, by decide⟩
theorem wit_extract : ∃ s : State, s.fsm = .extract ∧ s.input.rst = false ∧ s.reqOp = 0x0 ∧ s.respWord = 0xFFFFFFFFFF :=
  ⟨{ block 4 .extract [] with respWord := 0xFFFFFFFFFF }, by decide⟩
theorem wit_step_next : ∃ s t : State, step s = .next t ∧ t.history = s.history ++ [.rIn (some 7)] :=
  ⟨block 4 .rdIn [answers 7], _, rfl, rfl⟩

/-- The hypotheses of the statements about a return to IDLE, for each outcome. -/
theorem wit_ends_ok : ∃ s t : State, step s = .next t ∧ s.input.rst = false ∧ s.fsm ≠ .idle ∧ t.fsm = .idle ∧
    t.resStatus = .ok := ⟨block 4 .extract [], _, rfl, by decide⟩
theorem wit_ends_invalid : ∃ s t : State, step s = .next t ∧ s.input.rst = false ∧ s.fsm ≠ .idle ∧ t.fsm = .idle ∧
    t.resStatus = .invalidArgument := ⟨{ block 4 .build [] with reqOp := 0xE }, _, rfl, by decide⟩
theorem wit_ends_timeout : ∃ s t : State, step s = .next t ∧ s.input.rst = false ∧ s.fsm ≠ .idle ∧ t.fsm = .idle ∧
    t.resStatus = .deviceTimeout := ⟨block 1 .poll [answers 0], _, rfl, by decide⟩
theorem wit_ends_transport : ∃ s t : State, step s = .next t ∧ s.input.rst = false ∧ s.fsm ≠ .idle ∧ t.fsm = .idle ∧
    t.resStatus = .transportError := ⟨block 4 .rdIn [answersErr], _, rfl, by decide⟩
theorem wit_step_after_end : ∃ s t u : State, step s = .next t ∧ s.input.rst = false ∧ s.fsm ≠ .idle ∧ t.fsm = .idle ∧
    step t = .next u ∧ u.fsm = .build :=
  ⟨block 4 .extract [quiet, offered (Args.none.request 1)], _, _, rfl, rfl, by decide, rfl, rfl, rfl⟩
theorem wit_last_poll_err : ∃ s : State, s.fsm = .poll ∧ s.pollCnt + 1 = s.cfg.pollLimit ∧ s.input.answer = some .err :=
  ⟨{ block 4 .poll [answersErr] with pollCnt := 3 }, by decide⟩
theorem wit_last_poll_done : ∃ (s : State) (v : XWord), s.fsm = .poll ∧ s.pollCnt + 1 = s.cfg.pollLimit ∧
    s.input.answer = some (.ok v) ∧ doneFlag (statusValue v) = true := ⟨block 1 .poll [answers 1], 1, by decide⟩
theorem wit_env_reset_in_poll : ∃ s t : State, step s = .next t ∧ s.envIndeterminate = false ∧ s.input.rst = true ∧
    s.fsm = .poll ∧ t.envIndeterminate = true := ⟨block 4 .poll [resets], _, rfl, by decide⟩
theorem wit_result_held_idle : ∃ s t : State, step s = .next t ∧ s.input.rst = false ∧
    ¬ (s.fsm = .idle ∧ s.input.request ≠ none) ∧ ¬ (s.fsm ≠ .idle ∧ t.fsm = .idle) ∧ s.resValid = true :=
  ⟨{ block 4 .idle [] with resValid := true }, _, rfl, by decide⟩
theorem wit_result_held_busy : ∃ s t : State, step s = .next t ∧ s.input.rst = false ∧
    ¬ (s.fsm = .idle ∧ s.input.request ≠ none) ∧ ¬ (s.fsm ≠ .idle ∧ t.fsm = .idle) ∧ s.fsm = .poll :=
  ⟨block 4 .poll [answers 0], _, rfl, by decide⟩
theorem wit_pure_build : ∃ s s' t t' : State, s.input.rst = false ∧ s'.input.rst = false ∧ step s = .next t ∧
    step s' = .next t' ∧ s.fsm = .build ∧ s'.fsm = .build ∧ s.latched = s'.latched ∧ s.cfg = s'.cfg ∧
    s.respWord ≠ s'.respWord ∧ t.fsm = .wrOut :=
  ⟨block 4 .build [], { block 4 .build [] with respWord := 1, cmdWord := 7 }, _, _, rfl, rfl, rfl, rfl, by decide⟩
theorem wit_pure_extract : ∃ s s' t t' : State, s.input.rst = false ∧ s'.input.rst = false ∧ step s = .next t ∧
    step s' = .next t' ∧ s.fsm = .extract ∧ s'.fsm = .extract ∧ s.latched = s'.latched ∧ s.respWord = s'.respWord ∧
    s.cmdWord ≠ s'.cmdWord :=
  ⟨{ block 4 .extract [] with respWord := 5 }, { block 4 .extract [] with respWord := 5, cmdWord := 7 }, _, _,
    rfl, rfl, rfl, rfl, by decide⟩
theorem wit_pure_length : ∃ s s' t t' : State, s.input.rst = false ∧ s'.input.rst = false ∧ step s = .next t ∧
    step s' = .next t' ∧ s.fsm = .build ∧ s'.fsm = .build ∧ s.reqOp = s'.reqOp ∧ s.reqOp ≠ 0xD ∧ t.fsm = .wrOut ∧
    t'.fsm = .wrOut ∧ t.cmdWord ≠ t'.cmdWord :=
  ⟨serving (.writeStatus (dataIs 0)) .build [], serving (.writeStatus (dataIs 0xFF)) .build [], _, _,
    rfl, rfl, rfl, rfl, by decide⟩
theorem wit_exec_next : ∀ f ∈ [Fsm.idle, .build, .wrOut, .wrCtrl, .poll, .rdIn, .extract],
    ∃ (i : Instr) (s t : State), s.fsm = f ∧ exec i s = .next t := by
  intro f hf
  simp only [List.mem_cons, List.not_mem_nil, or_false] at hf
  rcases hf with rfl | rfl | rfl | rfl | rfl | rfl | rfl <;> exact ⟨.readId Args.none, block 4 _ [answers 0], _, rfl, rfl⟩
theorem wit_outputs_equal : ∃ s t : State, s ≠ t ∧ s.resValid = t.resValid ∧ s.resStatus = t.resStatus ∧
    s.resValue = t.resValue ∧ s.busy = t.busy := ⟨block 4 .poll [], block 4 .rdIn [], by decide⟩
theorem wit_seven : ∃ s : State, s.fsm = .unused7 := ⟨block 4 .unused7 [], rfl⟩
theorem wit_reset : ∃ s : State, s.fsm ≠ .unused7 ∧ s.input.rst = true ∧ s.fsm = .poll ∧ s.respWord ≠ 0 :=
  ⟨{ block 4 .poll [resets] with respWord := 9 }, by decide⟩

/-! States in POLL, RD_IN and EXTRACT that have the invariant: write_enable is served, one STATUS read returned done clear. -/

def begun : List Event := [.wOut 6 true, .wCtrl 0x00000801 true]

def served (f : Fsm) (h : List Event) (v : XWord) (xs : List EnvInput) : State :=
  { serving (.writeEnable Args.none) f xs with cmdWord := 6, bitLen := 8, pollCnt := 1, respWord := v, history := h }

def polling : State := served .poll (begun ++ [.rStatus (some 0)]) 0 [answers 1]
def reading : State := served .rdIn (begun ++ [.rStatus (some 0), .rStatus (some 1)]) 0 [answers 5]
def extracting : State := served .extract (begun ++ [.rStatus (some 0), .rStatus (some 1), .rIn (some 5)]) 5 []

theorem clear_one : ∀ v ∈ ([0] : List RegWord), doneFlag v = false := by
  intro v hv; rw [List.mem_singleton.1 hv]; rfl
theorem clear_two : ∀ v ∈ ([0, 2] : List RegWord), doneFlag v = false := by
  intro v hv
  rcases List.mem_cons.1 hv with rfl | hv
  · rfl
  · rw [List.mem_singleton.1 hv]; rfl

theorem wit_inv_poll : Inv polling ∧ polling.fsm = .poll ∧ ∃ t, step polling = .next t :=
  ⟨⟨by decide, by decide, by decide, by decide, by decide, by decide, by decide, by decide,
    ⟨[], [0], rfl, rfl, clear_one⟩⟩, rfl, _, rfl⟩
theorem wit_inv_rd_in : Inv reading ∧ reading.fsm = .rdIn ∧ ∃ t, step reading = .next t :=
  ⟨⟨by decide, by decide, by decide, by decide, by decide, by decide, by decide, by decide,
    ⟨[], [0], 1, rfl, rfl, clear_one, rfl⟩⟩, rfl, _, rfl⟩
theorem wit_inv_extract : Inv extracting ∧ extracting.fsm = .extract ∧ ∃ t, step extracting = .next t :=
  ⟨⟨by decide, by decide, by decide, by decide, by decide, by decide, by decide, by decide,
    ⟨[], [0], 1, rfl, rfl, clear_one, rfl⟩⟩, rfl, _, rfl⟩

/-! The whole transactions: read_id with POLL_LIMIT = 2 and one STATUS read with done clear before the rest. -/

def start (xs : List EnvInput) : State := block 2 .idle xs
def readId : Request := Args.none.request 0
def x₀ : EnvInput := offered readId

theorem polls_one : pollsClear [answers 0] [0] := ⟨.cons ⟨0, ⟨rfl, rfl⟩, rfl⟩ .nil, clear_one⟩
theorem polls_two : pollsClear [answers 0, answers 2] [0, 2] :=
  ⟨.cons ⟨0, ⟨rfl, rfl⟩, rfl⟩ (.cons ⟨2, ⟨rfl, rfl⟩, rfl⟩ .nil), clear_two⟩
theorem encodes_read_id : refEncode (Config.reference 2) readId = some (0x9F000000, 32) := by decide

theorem wit_transaction_ok : ∃ (s : State) (r : Request) (w l : Nat) (x₀ x₁ x₂ x₃ x₄ x₅ x₆ : EnvInput)
    (xs rest : List EnvInput) (vs : List RegWord) (a₂ a₃ d v : XWord),
    s.fsm = .idle ∧ s.inputs = x₀ :: x₁ :: x₂ :: x₃ :: (xs ++ x₄ :: x₅ :: x₆ :: rest) ∧
    x₀.rst = false ∧ x₀.request = some r ∧ x₁.rst = false ∧ x₂.answersOk a₂ ∧ x₃.answersOk a₃ ∧
    pollsClear xs vs ∧ vs.length < s.cfg.pollLimit.toNat ∧
    x₄.answersOk d ∧ doneFlag (statusValue d) = true ∧ x₅.answersOk v ∧ x₆.rst = false ∧
    refEncode s.cfg r = some (w, l) :=
  ⟨start [x₀, quiet, answers 0, answers 0, answers 0, answers 1, answers 0x1040, quiet], readId, 0x9F000000, 32,
    x₀, quiet, answers 0, answers 0, answers 1, answers 0x1040, quiet, [answers 0], [], [0], 0, 0, 1, 0x1040,
    rfl, rfl, rfl, rfl, rfl, ⟨rfl, rfl⟩, ⟨rfl, rfl⟩, polls_one, by decide, ⟨rfl, rfl⟩, by decide, ⟨rfl, rfl⟩, rfl,
    encodes_read_id⟩
theorem wit_transaction_timeout : ∃ (s : State) (r : Request) (w l : Nat) (x₀ x₁ x₂ x₃ : EnvInput)
    (xs rest : List EnvInput) (vs : List RegWord) (a₂ a₃ : XWord),
    s.fsm = .idle ∧ s.inputs = x₀ :: x₁ :: x₂ :: x₃ :: (xs ++ rest) ∧
    x₀.rst = false ∧ x₀.request = some r ∧ x₁.rst = false ∧ x₂.answersOk a₂ ∧ x₃.answersOk a₃ ∧
    pollsClear xs vs ∧ vs.length = s.cfg.pollLimit.toNat ∧ s.cfg.wf ∧ refEncode s.cfg r = some (w, l) :=
  ⟨start [x₀, quiet, answers 0, answers 0, answers 0, answers 2], readId, 0x9F000000, 32,
    x₀, quiet, answers 0, answers 0, [answers 0, answers 2], [], [0, 2], 0, 0,
    rfl, rfl, rfl, rfl, rfl, ⟨rfl, rfl⟩, ⟨rfl, rfl⟩, polls_two, by decide, by decide, encodes_read_id⟩
theorem wit_transaction_invalid : ∃ (s : State) (r : Request) (x₀ x₁ : EnvInput) (rest : List EnvInput),
    s.fsm = .idle ∧ s.inputs = x₀ :: x₁ :: rest ∧ x₀.rst = false ∧ x₀.request = some r ∧ x₁.rst = false ∧
    refEncode s.cfg r = none :=
  ⟨start [offered (addrBad.request 5), quiet], addrBad.request 5, offered (addrBad.request 5), quiet, [], by decide⟩
theorem wit_transaction_err_out : ∃ (s : State) (r : Request) (w l : Nat) (x₀ x₁ x₂ : EnvInput) (rest : List EnvInput),
    s.fsm = .idle ∧ s.inputs = x₀ :: x₁ :: x₂ :: rest ∧
    x₀.rst = false ∧ x₀.request = some r ∧ x₁.rst = false ∧ x₂.answersErr ∧ refEncode s.cfg r = some (w, l) :=
  ⟨start [x₀, quiet, answersErr], readId, 0x9F000000, 32, x₀, quiet, answersErr, [],
    rfl, rfl, rfl, rfl, rfl, ⟨rfl, rfl⟩, encodes_read_id⟩
theorem wit_transaction_err_ctrl : ∃ (s : State) (r : Request) (w l : Nat) (x₀ x₁ x₂ x₃ : EnvInput)
    (rest : List EnvInput) (a₂ : XWord),
    s.fsm = .idle ∧ s.inputs = x₀ :: x₁ :: x₂ :: x₃ :: rest ∧
    x₀.rst = false ∧ x₀.request = some r ∧ x₁.rst = false ∧ x₂.answersOk a₂ ∧ x₃.answersErr ∧
    refEncode s.cfg r = some (w, l) :=
  ⟨start [x₀, quiet, answers 0, answersErr], readId, 0x9F000000, 32, x₀, quiet, answers 0, answersErr, [], 0,
    rfl, rfl, rfl, rfl, rfl, ⟨rfl, rfl⟩, ⟨rfl, rfl⟩, encodes_read_id⟩
theorem wit_transaction_err_poll : ∃ (s : State) (r : Request) (w l : Nat) (x₀ x₁ x₂ x₃ x₄ : EnvInput)
    (xs rest : List EnvInput) (vs : List RegWord) (a₂ a₃ : XWord),
    s.fsm = .idle ∧ s.inputs = x₀ :: x₁ :: x₂ :: x₃ :: (xs ++ x₄ :: rest) ∧
    x₀.rst = false ∧ x₀.request = some r ∧ x₁.rst = false ∧ x₂.answersOk a₂ ∧ x₃.answersOk a₃ ∧
    pollsClear xs vs ∧ vs.length < s.cfg.pollLimit.toNat ∧ x₄.answersErr ∧ refEncode s.cfg r = some (w, l) :=
  ⟨start [x₀, quiet, answers 0, answers 0, answers 0, answersErr], readId, 0x9F000000, 32,
    x₀, quiet, answers 0, answers 0, answersErr, [answers 0], [], [0], 0, 0,
    rfl, rfl, rfl, rfl, rfl, ⟨rfl, rfl⟩, ⟨rfl, rfl⟩, polls_one, by decide, ⟨rfl, rfl⟩, encodes_read_id⟩
theorem wit_transaction_err_in : ∃ (s : State) (r : Request) (w l : Nat) (x₀ x₁ x₂ x₃ x₄ x₅ : EnvInput)
    (xs rest : List EnvInput) (vs : List RegWord) (a₂ a₃ d : XWord),
    s.fsm = .idle ∧ s.inputs = x₀ :: x₁ :: x₂ :: x₃ :: (xs ++ x₄ :: x₅ :: rest) ∧
    x₀.rst = false ∧ x₀.request = some r ∧ x₁.rst = false ∧ x₂.answersOk a₂ ∧ x₃.answersOk a₃ ∧
    pollsClear xs vs ∧ vs.length < s.cfg.pollLimit.toNat ∧
    x₄.answersOk d ∧ doneFlag (statusValue d) = true ∧ x₅.answersErr ∧ refEncode s.cfg r = some (w, l) :=
  ⟨start [x₀, quiet, answers 0, answers 0, answers 0, answers 1, answersErr], readId, 0x9F000000, 32,
    x₀, quiet, answers 0, answers 0, answers 1, answersErr, [answers 0], [], [0], 0, 0, 1,
    rfl, rfl, rfl, rfl, rfl, ⟨rfl, rfl⟩, ⟨rfl, rfl⟩, polls_one, by decide, ⟨rfl, rfl⟩, by decide, ⟨rfl, rfl⟩,
    encodes_read_id⟩
/-- R48, R51: the 32 bits received spell 0x9F001040 and the bits above them are set; also each shorter and longer window. -/
theorem wit_inbound : inboundContract 32 (sentBits 32 0x9F001040) 0xFF9F001040 ∧
    inboundContract 16 (sentBits 16 0xABCD) 0xFFFFFFABCD ∧ inboundContract 24 (sentBits 24 0x12FFFF) 0xFFFF12FFFF ∧
    inboundContract 40 (sentBits 40 0xFFFFFFFF3C) 0xFFFFFFFF3C := by
  refine ⟨⟨?_, ?_⟩, ⟨?_, ?_⟩, ⟨?_, ?_⟩, ⟨?_, ?_⟩⟩ <;> decide
/-- BUILD, EXTRACT and what follows have no answers. -/
def okInputs : List EnvInput :=
  [x₀, quiet, answers 0, answers 0, answers 0, answers 1, answers 0xFF9F001040, quiet, answersErr, resets]

theorem wit_completes_in_bound : ∃ (s : State) (r : Request), s.fsm = .idle ∧ s.cfg.wf ∧ s.input.request = some r ∧
    untilIdle State.answered (6 + s.cfg.pollLimit.toNat) s := by
  refine ⟨start okInputs, readId, rfl, by decide, rfl, ?_⟩
  change untilIdle _ 8 _
  iterate 7 refine untilIdle_next ⟨rfl, by decide⟩ rfl ?_
  exact untilIdle_last (n := 0) ⟨rfl, by decide⟩ rfl rfl

/-- Transfers that end after one read with the identification bytes, and a device that is stuck. -/
def endsAfterOne (_ : Nat) : TransferDraw := ⟨some 1, sentBits 32 0x9F001040⟩
def stuck (_ : Nat) : TransferDraw := ⟨none, []⟩

theorem ok_of (s : State) (v : XWord) (hr : s.input.rst = false) (ha : s.input.answer = some (.ok v)) : s.answeredOk :=
  ⟨hr, fun _ => ⟨v, ha⟩⟩

theorem wit_contracted_ok : ∃ (draws : Nat → TransferDraw) (s : State) (r : Request) (w l k : Nat),
    s.fsm = .idle ∧ s.envIndeterminate = false ∧ s.cfg.wf ∧ s.input.request = some r ∧ refEncode s.cfg r = some (w, l) ∧
    untilIdle (fun u => u.answeredOk ∧ u.meetsContract draws) (6 + s.cfg.pollLimit.toNat) s ∧
    (draws ((wireOf s.history).started.length + 1)).clearReads = some k ∧ k < s.cfg.pollLimit.toNat := by
  refine ⟨endsAfterOne, start okInputs, readId, 0x9F000000, 32, 1, rfl, rfl, by decide, rfl, encodes_read_id, ?_, rfl, by decide⟩
  change untilIdle _ 8 _
  refine untilIdle_next ⟨⟨rfl, by decide⟩, meetsContract_of_no_read (by decide) (by decide)⟩ rfl ?_
  refine untilIdle_next ⟨⟨rfl, by decide⟩, meetsContract_of_no_read (by decide) (by decide)⟩ rfl ?_
  refine untilIdle_next ⟨ok_of _ 0 rfl rfl, meetsContract_of_no_read (by decide) (by decide)⟩ rfl ?_
  refine untilIdle_next ⟨ok_of _ 0 rfl rfl, meetsContract_of_no_read (by decide) (by decide)⟩ rfl ?_
  refine untilIdle_next ⟨ok_of _ 0 rfl rfl, meetsContract_poll rfl rfl rfl⟩ rfl ?_
  refine untilIdle_next ⟨ok_of _ 1 rfl rfl, meetsContract_poll rfl rfl rfl⟩ rfl ?_
  refine untilIdle_next ⟨ok_of _ 0xFF9F001040 rfl rfl, meetsContract_rdIn (x := ⟨32, some 0x9F000000⟩) rfl rfl rfl ?_⟩ rfl ?_
  · exact wit_inbound.1
  exact untilIdle_last (n := 0) ⟨⟨rfl, by decide⟩, meetsContract_of_no_read (by decide) (by decide)⟩ rfl rfl

theorem wit_contracted_timeout : ∃ (draws : Nat → TransferDraw) (s : State) (r : Request) (w l : Nat),
    s.fsm = .idle ∧ s.envIndeterminate = false ∧ s.cfg.wf ∧ s.input.request = some r ∧ refEncode s.cfg r = some (w, l) ∧
    untilIdle (fun u => u.answeredOk ∧ u.meetsContract draws) (6 + s.cfg.pollLimit.toNat) s ∧
    ∀ k, (draws ((wireOf s.history).started.length + 1)).clearReads = some k → s.cfg.pollLimit.toNat ≤ k := by
  refine ⟨stuck, start [x₀, quiet, answers 0, answers 0, answers 0, answers 2], readId, 0x9F000000, 32, rfl, rfl, by decide, rfl,
    encodes_read_id, ?_, fun k h => by cases h⟩
  change untilIdle _ 8 _
  refine untilIdle_next ⟨⟨rfl, by decide⟩, meetsContract_of_no_read (by decide) (by decide)⟩ rfl ?_
  refine untilIdle_next ⟨⟨rfl, by decide⟩, meetsContract_of_no_read (by decide) (by decide)⟩ rfl ?_
  refine untilIdle_next ⟨ok_of _ 0 rfl rfl, meetsContract_of_no_read (by decide) (by decide)⟩ rfl ?_
  refine untilIdle_next ⟨ok_of _ 0 rfl rfl, meetsContract_of_no_read (by decide) (by decide)⟩ rfl ?_
  refine untilIdle_next ⟨ok_of _ 0 rfl rfl, meetsContract_poll rfl rfl rfl⟩ rfl ?_
  exact untilIdle_last ⟨ok_of _ 2 rfl rfl, meetsContract_poll rfl rfl rfl⟩ rfl rfl

/-- The premises about one answer, in POLL and in RD_IN, and a state to which R55 applies. -/
theorem wit_contracted_poll : ∃ (draws : Nat → TransferDraw) (s t : State) (v : XWord), Inv s ∧ s.envIndeterminate = false ∧
    s.meetsContract draws ∧ s.input.rst = false ∧ s.input.answer = some (.ok v) ∧ step s = .next t ∧ s.fsm = .poll :=
  ⟨endsAfterOne, polling, _, 1, wit_inv_poll.1, rfl, meetsContract_poll rfl rfl rfl, rfl, rfl, rfl, rfl⟩
theorem wit_contracted_rd_in : ∃ (draws : Nat → TransferDraw) (s t : State) (v : XWord), Inv s ∧ s.envIndeterminate = false ∧
    s.meetsContract draws ∧ s.input.rst = false ∧ s.input.answer = some (.ok v) ∧ step s = .next t ∧ s.fsm = .rdIn :=
  ⟨fun _ => ⟨some 1, sentBits 8 5⟩, reading, _, 5, wit_inv_rd_in.1, rfl,
    meetsContract_rdIn (x := ⟨8, some 6⟩) rfl rfl rfl ⟨rfl, by decide⟩, rfl, rfl, rfl, rfl⟩
theorem wit_indeterminate : ∃ s : State, s.envIndeterminate = true ∧ s.fsm = .poll :=
  ⟨{ block 4 .poll [] with envIndeterminate := true }, rfl, rfl⟩
theorem wit_transfer_starts : ∃ s t : State, step s = .next t ∧ s.fsm = .wrCtrl ∧ t.fsm = .poll :=
  ⟨block 4 .wrCtrl [answers 0], _, rfl, rfl, rfl⟩
theorem wit_out_written : ∃ s t : State, step s = .next t ∧ s.fsm = .wrOut ∧ t.fsm = .wrCtrl :=
  ⟨block 4 .wrOut [answers 0], _, rfl, rfl, rfl⟩

/-! The operations' own statements: boundary values of their ranges. -/

theorem wit_addr_bounds : ∃ (a b : Args) (s : State), s.fsm = .build ∧ a.addr.toNat < 2 ^ 24 ∧ a.addr = 0xFFFFFF ∧
    2 ^ 24 ≤ b.addr.toNat ∧ b.addr = 0x1000000 := ⟨addrTop, addrBad, block 4 .build [], by decide⟩
theorem wit_byte_bounds : ∃ (a b : Args) (s : State), s.fsm = .build ∧ a.data.toNat < 2 ^ 8 ∧ a.data = 0xFF ∧
    2 ^ 8 ≤ b.data.toNat ∧ b.data = 0x100 := ⟨dataIs 0xFF, dataIs 0x100, block 4 .build [], by decide⟩
theorem wit_addr_and_byte_bounds : ∃ (a b : Args) (s : State), s.fsm = .build ∧
    (a.addr.toNat < 2 ^ 24 ∧ a.data.toNat < 2 ^ 8) ∧ a = { addrTop with data := 0xFF } ∧
    (2 ^ 24 ≤ b.addr.toNat ∨ 2 ^ 8 ≤ b.data.toNat) ∧ b = { addrTop with data := 0x100 } :=
  ⟨{ addrTop with data := 0xFF }, { addrTop with data := 0x100 }, block 4 .build [], by decide⟩
theorem wit_half_bounds : ∃ (a b : Args) (s : State), s.fsm = .build ∧ a.data.toNat < 2 ^ 16 ∧ a.data = 0xFFFF ∧
    2 ^ 16 ≤ b.data.toNat ∧ b.data = 0x10000 := ⟨dataIs 0xFFFF, dataIs 0x10000, block 4 .build [], by decide⟩
theorem wit_transfer_legal : ∃ (a : Args) (s : State), s.fsm = .build ∧ a.len.toNat ≠ 0 ∧ a.len.toNat ≤ 40 ∧
    a.word.toNat < 2 ^ 40 ∧ a.len = 40 ∧ a.word = 0xFFFFFFFFFF := ⟨frameIs 40 0xFFFFFFFFFF, block 4 .build [], by decide⟩
theorem wit_transfer_illegal : ∀ a ∈ [frameIs 0 0, frameIs 41 0, frameIs 40 0x10000000000],
    a.len.toNat = 0 ∨ 40 < a.len.toNat ∨ 2 ^ 40 ≤ a.word.toNat := by decide
theorem wit_reserved : ∃ (s : State) (r : Request) (x₀ x₁ : EnvInput) (rest : List EnvInput),
    (r.op = 0xE ∨ r.op = 0xF) ∧ s.fsm = .idle ∧ s.inputs = x₀ :: x₁ :: rest ∧ x₀.rst = false ∧ x₀.request = some r ∧
    x₁.rst = false :=
  ⟨start [offered (Args.none.request 0xF), quiet], Args.none.request 0xF, offered (Args.none.request 0xF), quiet, [],
    by decide⟩
theorem wit_read_result : ∃ (s₁ s₂ s₃ s₄ : State) (b₁ b₂ b₃ b₄ : List Bool),
    s₁.fsm = .extract ∧ inboundContract 32 b₁ s₁.respWord ∧ s₂.fsm = .extract ∧ inboundContract 16 b₂ s₂.respWord ∧
    s₃.fsm = .extract ∧ inboundContract 24 b₃ s₃.respWord ∧ s₄.fsm = .extract ∧ inboundContract 40 b₄ s₄.respWord :=
  ⟨{ block 4 .extract [] with respWord := 0xFF9F001040 }, { block 4 .extract [] with respWord := 0xFFFFFFABCD },
    { block 4 .extract [] with respWord := 0xFFFF12FFFF }, { block 4 .extract [] with respWord := 0xFFFFFFFF3C },
    _, _, _, _, rfl, wit_inbound.1, rfl, wit_inbound.2.1, rfl, wit_inbound.2.2.1, rfl, wit_inbound.2.2.2⟩
/-- The same with the block's own length, for a read and for a transfer of 16 bits. -/
theorem wit_read_result_built : ∃ (s : State) (bits : List Bool), Inv s ∧ s.fsm = .extract ∧ s.input.rst = false ∧
    inboundContract s.bitLen.toNat bits s.respWord ∧ s.reqOp ≠ 0xD :=
  ⟨extracting, sentBits 8 5, wit_inv_extract.1, rfl, rfl, ⟨rfl, by decide⟩, by decide⟩
def transferring : State :=
  { serving (.transfer (frameIs 16 0xAB0500)) .extract [] with
    cmdWord := 0xAB0500, bitLen := 16, respWord := 0xFFFFFF1234
    history := [.wOut 0xAB0500 true, .wCtrl 0x00001001 true, .rStatus (some 1), .rIn (some 0xFFFFFF1234)] }
theorem wit_read_result_transfer : ∃ (s : State) (bits : List Bool), Inv s ∧ s.fsm = .extract ∧ s.input.rst = false ∧
    inboundContract s.bitLen.toNat bits s.respWord ∧ s.reqOp = 0xD :=
  ⟨transferring, sentBits 16 0x1234, ⟨by decide, by decide, by decide, by decide, by decide, by decide, by decide, by decide,
    ⟨[], [], 1, rfl, rfl, fun _ h => (List.not_mem_nil h).elim, rfl⟩⟩, rfl, rfl, ⟨rfl, by decide⟩, rfl⟩
theorem wit_wire : ∃ w w' : XWord, w ≠ w' ∧ ∀ k, k < 8 → w'.getLsbD k = w.getLsbD k := ⟨0x0FF, 0x1FF, by decide⟩

end Sys2Proof.Tests
end

/-! The bits of the control word, the event a step adds to `H`, and the two ways a busy step leaves the result registers and
`env_indeterminate`; from them the statements about CTRL writes (R31) and about `env_indeterminate` (R33). -/

namespace Sys2Proof.Machine

/-! ## The control word, bit by bit (R31, R70) -/

/-- The start flag is bit 0 and the length field begins at bit 8. -/
theorem ctrlWord_getLsbD (l : BitLen) (k : Nat) :
    (ctrlWord l).getLsbD k = (decide (k = 0) || (decide (8 ≤ k) && l.getLsbD (k - 8))) := by
  by_cases hk : k < 32
  · simp only [ctrlWord, Config.ctrlLenLsb, Config.ctrlStartBit, BitVec.getLsbD_or, BitVec.getLsbD_shiftLeft,
      BitVec.getLsbD_setWidth, BitVec.getLsbD_one]
    grind
  · have h0 : k ≠ 0 := by omega
    have hl : l.getLsbD (k - 8) = false := BitVec.getLsbD_of_ge _ _ (by omega)
    simp [BitVec.getLsbD_of_ge (ctrlWord l) k (by omega), h0, hl]

theorem ctrlWord_startFlag (l : BitLen) : (ctrlWord l).getLsbD 0 = true := by simp [ctrlWord_getLsbD]

theorem ctrlWord_lenField (l : BitLen) : (ctrlWord l).extractLsb' 8 8 = l := by
  ext k hk
  simp [ctrlWord_getLsbD, hk]

/-- A bit that is neither the start flag nor in the length field is 0. -/
theorem ctrlWord_otherBits (l : BitLen) {k : Nat} (h0 : k ≠ 0) (hf : ¬ (8 ≤ k ∧ k ≤ 15)) :
    (ctrlWord l).getLsbD k = false := by
  rw [ctrlWord_getLsbD]
  by_cases h8 : 8 ≤ k
  · simp [h0, BitVec.getLsbD_of_ge l (k - 8) (by omega)]
  · simp [h0, h8]

/-! ## A completion, field by field (R108) -/

@[simp] theorem ended_fsm (s : State) (st : ResStatus) (val : XWord) : (s.ended st val).fsm = .idle := rfl
@[simp] theorem ended_history (s : State) (st : ResStatus) (val : XWord) : (s.ended st val).history = s.history := rfl
@[simp] theorem ended_resStatus (s : State) (st : ResStatus) (val : XWord) : (s.ended st val).resStatus = st := rfl
@[simp] theorem ended_envIndeterminate (s : State) (st : ResStatus) (val : XWord) :
    (s.ended st val).envIndeterminate =
      (s.envIndeterminate || (st = .deviceTimeout || st = .transportError)) := rfl

/-! ## The event a step adds to `H` (R37, R38, R79 to R82) -/

/-- `e` is an event of the access that state `s` makes; a write carries the register's contents. -/
def State.canLog (s : State) : Event → Prop
  | .wOut v _ => s.fsm = .wrOut ∧ v = s.cmdWord
  | .wCtrl v _ => s.fsm = .wrCtrl ∧ v = ctrlWord s.bitLen
  | .rStatus _ => s.fsm = .poll
  | .rIn _ => s.fsm = .rdIn

/-- A busy step leaves `H` as it was or appends one event of its state's own access. -/
theorem served_history_cases {s : State} (i : Instr) (hi : s.fsm ≠ .idle) (h7 : s.fsm ≠ .unused7) :
    (s.served i).history = s.history ∨ ∃ e, (s.served i).history = s.history ++ [e] ∧ s.canLog e := by
  rcases served_busy_cases s i hi h7 with ⟨-, ⟨f, -, ht⟩ | ⟨-, ht⟩⟩ | ⟨-, ht⟩ | ⟨-, -, ht⟩ | ⟨e, hacc, -, he, ht⟩ | ⟨v, -, hok⟩
  · exact .inl (by rw [ht])
  · exact .inl (by rw [ht, ended_history])
  · exact .inl (by rw [ht, ended_history])
  · exact .inl (by rw [ht])
  · refine .inr ⟨e, by rw [ht, ended_history], ?_⟩
    cases hs : s.fsm <;> simp_all [Fsm.accessing, State.canLog]
  · rcases hok with ⟨hs, ht⟩ | ⟨hs, ht⟩ | ⟨hs, -, ht⟩ | ⟨hs, -, -, ht⟩ | ⟨hs, -, -, ht⟩ | ⟨hs, ht⟩
    all_goals exact .inr ⟨_, congrArg State.history ht, by simp [State.canLog, hs]⟩

/-- So does every step: reset and the steps from IDLE make no access. -/
theorem step_history_cases {s t : State} (h : step s = .next t) :
    t.history = s.history ∨ ∃ e, t.history = s.history ++ [e] ∧ s.canLog e := by
  obtain ⟨h7, ⟨-, rfl⟩ | ⟨-, -, -, rfl⟩ | ⟨r, -, -, -, rfl⟩ | ⟨-, hi, rfl⟩⟩ := step_next_cases h
  · exact .inl rfl
  · exact .inl rfl
  · exact .inl rfl
  · exact served_history_cases _ hi h7

/-- The event that a step appended is one of its state's own access. -/
theorem canLog_of_step_appends {s t : State} {e : Event} (h : step s = .next t) (ht : t.history = s.history ++ [e]) :
    s.canLog e := by
  rcases step_history_cases h with hsame | ⟨e', happ, hlog⟩
  · simp [hsame] at ht
  · obtain rfl : e' = e := by simpa [happ] using ht
    exact hlog

/-! ## What a busy step does to the result registers and `env_indeterminate` (R33, R108) -/

/-- A busy step either completes the transaction, or stays busy and leaves the result registers and `env_indeterminate`. -/
theorem served_ends_or_stays_busy {s : State} (i : Instr) (hi : s.fsm ≠ .idle) (h7 : s.fsm ≠ .unused7) :
    (∃ hist st val, s.served i = State.ended { s with history := hist } st val) ∨
    ((s.served i).fsm ≠ .idle ∧ (s.served i).resValid = s.resValid ∧ (s.served i).resStatus = s.resStatus ∧
      (s.served i).resValue = s.resValue ∧ (s.served i).envIndeterminate = s.envIndeterminate) := by
  rcases served_busy_cases s i hi h7 with ⟨-, ⟨f, -, ht⟩ | ⟨-, ht⟩⟩ | ⟨-, ht⟩ | ⟨-, -, ht⟩ | ⟨e, -, -, -, ht⟩ | ⟨v, -, hok⟩
  · exact .inr (by simp [ht])
  · exact .inl ⟨_, _, _, ht⟩
  · exact .inl ⟨_, _, _, ht⟩
  · exact .inr (by simp [ht, hi])
  · exact .inl ⟨_, _, _, ht⟩
  · rcases hok with ⟨-, ht⟩ | ⟨-, ht⟩ | ⟨-, -, ht⟩ | ⟨-, -, -, ht⟩ | ⟨-, -, -, ht⟩ | ⟨-, ht⟩
    · exact .inr (by simp [ht])
    · exact .inr (by simp [ht])
    · exact .inr (by simp [ht])
    · exact .inl ⟨_, _, _, ht⟩
    · exact .inr (by simp [ht, hi])
    · exact .inr (by simp [ht])

/-- A busy step sets `env_indeterminate` exactly by a completion with DeviceTimeout or TransportError. -/
theorem served_envIndeterminate_iff {s : State} (i : Instr) (hi : s.fsm ≠ .idle) (h7 : s.fsm ≠ .unused7) :
    (s.served i).envIndeterminate = true ↔ s.envIndeterminate = true ∨
      ((s.served i).fsm = .idle ∧
        ((s.served i).resStatus = .deviceTimeout ∨ (s.served i).resStatus = .transportError)) := by
  rcases served_ends_or_stays_busy i hi h7 with ⟨hist, st, val, ht⟩ | ⟨hbusy, -, -, -, henv⟩
  · simp [ht]
  · simp [hbusy, henv]

end Sys2Proof.Machine

namespace Sys2Proof

open Machine

/-- Settles O15: the event a step appends is its state's own, and the bits of `ctrlWord` are R31's. -/
theorem everyCtrlWriteStartsTransfer : Obligations.EveryCtrlWriteStartsTransfer := by
  intro s t v acked h ht
  obtain ⟨hs, rfl⟩ : s.fsm = .wrCtrl ∧ v = ctrlWord s.bitLen := canLog_of_step_appends h ht
  exact ⟨hs, ctrlWord_startFlag _, ctrlWord_lenField _, fun _ h0 hf => ctrlWord_otherBits _ h0 hf⟩

/-- Settles O26: by the four things a step can do; only reset in POLL and a completion touch `env_indeterminate`. -/
theorem envIndeterminateSetExactly : Obligations.EnvIndeterminateSetExactly := by
  refine ⟨rfl, fun s t h => ?_⟩
  obtain ⟨h7, ⟨hr, rfl⟩ | ⟨hr, hi, -, rfl⟩ | ⟨r, hr, hi, -, rfl⟩ | ⟨hr, hi, rfl⟩⟩ := step_next_cases h
  · simp [hr]
  · simp [hr, hi]
  · simp [hr, hi]
  · simpa [hr, hi] using served_envIndeterminate_iff (decodeRequest s.latched) hi h7

end Sys2Proof

/-! A step of BUILD and of EXTRACT on the latched request, the packing of a catalogue command word and its fields read back,
and from them the statements about the encoding (R63, R64, R66 to R71). -/

namespace Sys2Proof.Machine

/-! ## A step of BUILD and of EXTRACT (R78, R83) -/

theorem raise_invalidArgument (s : State) : s.raise .invalidArgument =
    { s with resStatus := .invalidArgument, resValue := 0, resValid := true, fsm := .idle } := by
  simp [State.raise, State.complete, ResStatus.leavesIndeterminate]

@[simp] theorem buildStep_none (s : State) : s.buildStep none = s.raise .invalidArgument := rfl

@[simp] theorem buildStep_some (s : State) (f : CmdFrame) :
    s.buildStep (some f) = { s with cmdWord := f.word, bitLen := f.len, fsm := .wrOut } := rfl

theorem buildStep_fsm_eq_wrOut_iff (s : State) (o : Option CmdFrame) : (s.buildStep o).fsm = .wrOut ↔ o.isSome := by
  cases o <;> simp

theorem extractStep_eq_ended (s : State) (keep : XWord → XWord) :
    s.extractStep keep = s.ended .ok (keep s.respWord) :=
  complete_eq_ended s .ok _

theorem step_build {s : State} (hs : s.fsm = .build) (hr : s.input.rst = false) :
    step s = .next (s.buildStep ((decodeRequest s.latched).frame s.cfg)).tick := by
  rw [step_busy (by simp [hs]) (by simp [hs]) hr]; simp [State.served, hs]

theorem step_extract {s : State} (hs : s.fsm = .extract) (hr : s.input.rst = false) :
    step s = .next (s.extractStep (decodeRequest s.latched).keep).tick := by
  rw [step_busy (by simp [hs]) (by simp [hs]) hr]; simp [State.served, hs]

/-- What BUILD computes in a step is R68's answer for the latched request. -/
theorem refEncode_eq_frame_decodeRequest (p : Params) (r : Request) :
    refEncode p r = ((decodeRequest r).frame p).map fun f => (f.word.toNat, f.len.toNat) := by
  simpa using refEncode_eq_frame p (decodeRequest r)

/-- What EXTRACT keeps in a step is R69's answer for the selector of the latched request. -/
theorem refExtract_eq_keep_decodeRequest (r : Request) (v : XWord) :
    refExtract r.op v.toNat = ((decodeRequest r).keep v).toNat := by
  simpa using refExtract_eq_keep (decodeRequest r) v

/-- The operations that build a frame are the well-formed ones (R63, R64). -/
theorem exists_frame_iff_wf {i : Instr} {p : Params} : (∃ f, i.frame p = some f) ↔ i.wf = true := by
  rw [← Option.ne_none_iff_exists', Ne, frame_eq_none_iff, Bool.not_eq_false]

/-- A request with a reserved selector builds nothing (R63). -/
theorem frame_decodeRequest_of_reserved {r : Request} (h : r.op = 0xE ∨ r.op = 0xF) (p : Params) :
    (decodeRequest r).frame p = none := by
  rcases h with h | h <;> simp [decodeRequest, h, Instr.frame]

end Sys2Proof.Machine

namespace Sys2Proof

open Machine

/-! ## The packing of a catalogue command word (R66, R67) -/

/-- The word that R66's formula gives for a row of the table. -/
def Packing.word (k : Packing) : Nat :=
  (k.opcode.toNat <<< (k.len - 8)) ||| (k.addr.elim 0 (· <<< (k.len - 32))) ||| k.data

/-- The fields below the opcode fit their places in a word of the row's length (R64, R67). -/
structure Packing.Fits (k : Packing) : Prop where
  opcodeFits : 8 ≤ k.len
  dataFits : k.addr = none → k.data < 2 ^ (k.len - 8)
  addrFits : ∀ a, k.addr = some a → 32 ≤ k.len ∧ a < 2 ^ 24 ∧ k.data < 2 ^ (k.len - 32)

theorem packing_fits {i : Instr} {p : Params} {k : Packing} (hw : i.wf = true) (hk : i.packing p = some k) : k.Fits := by
  cases i with
  | transfer a => cases hk
  | reservedE a => cases hk
  | reservedF a => cases hk
  | _ => cases hk; constructor <;> simp_all [Instr.wf]

/-- R68's table gives R66's formula for every well-formed catalogue operation. -/
theorem refEncode_eq_packing {i : Instr} {p : Params} {k : Packing} (hw : i.wf = true) (hk : i.packing p = some k) :
    refEncode p (encodeRequest i) = some (k.word, k.len) := by
  cases i with
  | transfer a => cases hk
  | reservedE a => cases hk
  | reservedF a => cases hk
  | _ =>
    cases hk
    simp_all [Instr.wf, Packing.word, refEncode_readId, refEncode_writeEnable, refEncode_writeDisable,
      refEncode_readStatus, refEncode_writeStatus, refEncode_eraseSector, refEncode_readSectorLock,
      refEncode_writeSectorLock, refEncode_readByte, refEncode_writeByte, refEncode_readNonvolatileConfig,
      refEncode_writeNonvolatileConfig, refEncode_bulkErase]

theorem frame_of_packing {i : Instr} {p : Params} {k : Packing} (hw : i.wf = true) (hk : i.packing p = some k) :
    ∃ f, i.frame p = some f ∧ f.word.toNat = k.word ∧ f.len.toNat = k.len := by
  have h := refEncode_eq_packing hw hk
  rw [refEncode_eq_frame] at h
  simpa using h

/-! ## Reading the fields back from the word (R66) -/

theorem shiftLeft_or_div {a b i : Nat} (h : b < 2 ^ i) : ((a <<< i) ||| b) / 2 ^ i = a := by
  rw [shiftLeft_or_eq_add h, Nat.add_comm, Nat.add_mul_div_right _ _ (Nat.two_pow_pos i), Nat.div_eq_of_lt h, Nat.zero_add]

theorem shiftLeft_or_mod {a b i : Nat} (h : b < 2 ^ i) : ((a <<< i) ||| b) % 2 ^ i = b := by
  rw [shiftLeft_or_eq_add h, Nat.mul_add_mod_self_right, Nat.mod_eq_of_lt h]

namespace Packing

/-- What stands below the opcode in a packed word. -/
def low (k : Packing) : Nat := (k.addr.elim 0 (· <<< (k.len - 32))) ||| k.data

theorem word_eq_opcode_or_low (k : Packing) : k.word = (k.opcode.toNat <<< (k.len - 8)) ||| k.low :=
  Nat.or_assoc ..

/-- With an address, opcode and address stand together above the data slot. -/
theorem word_of_addr {k : Packing} {a : Nat} (ha : k.addr = some a) (hl : 32 ≤ k.len) :
    k.word = (((k.opcode.toNat <<< 24) ||| a) <<< (k.len - 32)) ||| k.data := by
  rw [word, ha, Option.elim_some, Nat.shiftLeft_or_distrib, ← Nat.shiftLeft_add, show 24 + (k.len - 32) = k.len - 8 by omega]

theorem low_lt {k : Packing} (h : k.Fits) : k.low < 2 ^ (k.len - 8) := by
  cases ha : k.addr with
  | none => simpa [low, ha] using h.dataFits ha
  | some a =>
    obtain ⟨hl, haddr, hdata⟩ := h.addrFits a ha
    rw [low, ha, Option.elim_some, show k.len - 8 = 24 + (k.len - 32) by omega]
    refine Nat.or_lt_two_pow ?_ (hdata.trans_le (Nat.pow_le_pow_right (by decide) (by omega)))
    rw [Nat.shiftLeft_eq, Nat.pow_add]
    exact Nat.mul_lt_mul_of_pos_right haddr (Nat.two_pow_pos _)

theorem word_div_opcode {k : Packing} (h : k.Fits) : k.word / 2 ^ (k.len - 8) = k.opcode.toNat := by
  rw [word_eq_opcode_or_low, shiftLeft_or_div (low_lt h)]

theorem word_lt {k : Packing} (h : k.Fits) : k.word < 2 ^ k.len := by
  have hop : k.word / 2 ^ (k.len - 8) < 2 ^ 8 := word_div_opcode h ▸ k.opcode.isLt
  rwa [Nat.div_lt_iff_lt_mul (Nat.two_pow_pos _), ← Nat.pow_add, Nat.add_sub_cancel' h.opcodeFits] at hop

theorem word_mod_data {k : Packing} (h : k.Fits) (ha : k.addr = none) : k.word % 2 ^ (k.len - 8) = k.data := by
  rw [word_eq_opcode_or_low, shiftLeft_or_mod (low_lt h)]
  simp [low, ha]

theorem word_addr_and_data {k : Packing} {a : Nat} (h : k.Fits) (ha : k.addr = some a) :
    k.word / 2 ^ (k.len - 32) % 2 ^ 24 = a ∧ k.word % 2 ^ (k.len - 32) = k.data := by
  obtain ⟨hl, haddr, hdata⟩ := h.addrFits a ha
  rw [word_of_addr ha hl, shiftLeft_or_div hdata, shiftLeft_or_mod hdata, shiftLeft_or_mod haddr]
  exact ⟨rfl, rfl⟩

end Packing

/-! ## The length of a catalogue operation depends on its selector alone (R71) -/

/-- A built operation other than TRANSFER is a row of the catalogue. -/
theorem exists_packing_of_frame {i : Instr} {p : Params} {f : CmdFrame} (hf : i.frame p = some f)
    (hop : (encodeRequest i).op ≠ 0xD) : ∃ k, i.packing p = some k := by
  cases i with
  | transfer a => exact absurd rfl hop
  | reservedE a => cases hf
  | reservedF a => cases hf
  | _ => exact ⟨_, rfl⟩

/-- A row's length is that of the request which has its selector and no arguments, under any parameters. -/
theorem packing_len_eq_of_selector (i : Instr) (p q : Params) : (i.packing p).map Packing.len =
    ((decodeRequest (Args.none.request (encodeRequest i).op)).packing q).map Packing.len := by
  cases i <;> rfl

theorem frame_len_eq_of_op_eq {i j : Instr} {p q : Params} {f g : CmdFrame} (hf : i.frame p = some f)
    (hg : j.frame q = some g) (hop : (encodeRequest i).op = (encodeRequest j).op) (hD : (encodeRequest i).op ≠ 0xD) :
    f.len = g.len := by
  obtain ⟨k, hk⟩ := exists_packing_of_frame hf hD
  obtain ⟨m, hm⟩ := exists_packing_of_frame hg (hop ▸ hD)
  obtain ⟨_, hf', -, hfl⟩ := frame_of_packing (exists_frame_iff_wf.1 ⟨f, hf⟩) hk
  obtain ⟨_, hg', -, hgl⟩ := frame_of_packing (exists_frame_iff_wf.1 ⟨g, hg⟩) hm
  cases hf.symm.trans hf'
  cases hg.symm.trans hg'
  have hlen : k.len = m.len := by
    have hi := packing_len_eq_of_selector i p q
    rw [hop, ← packing_len_eq_of_selector j q q, hk, hm] at hi
    simpa using hi
  exact BitVec.eq_of_toNat_eq (by rw [hfl, hgl, hlen])

/-! ## The statements -/

/-- Settles O10: the frame of the latched request is R68's answer, and `buildStep` follows the frame. -/
theorem buildFollowsEncodeTable : Obligations.BuildFollowsEncodeTable := by
  intro s hs hr
  rw [step_build hs hr, refEncode_eq_frame_decodeRequest]
  refine ⟨fun h => ?_, fun w l h => ?_⟩
  · rw [Option.map_eq_none_iff.1 h, buildStep_none, raise_invalidArgument]; rfl
  · obtain ⟨f, hf, hwl⟩ := Option.map_eq_some_iff.1 h
    cases hwl
    obtain ⟨hl, hl'⟩ := frame_len_legal hf
    refine ⟨f.word.isLt, hl, hl', ?_⟩
    rw [hf, buildStep_some, BitVec.ofNat_toNat, BitVec.ofNat_toNat, BitVec.setWidth_eq, BitVec.setWidth_eq]; rfl

/-- Settles O11: an operation has no frame exactly when it is ill formed. -/
theorem buildRefusesExactlyIllFormed : Obligations.BuildRefusesExactlyIllFormed := by
  intro i s hs
  rw [exec_build hs]
  refine ⟨fun h => ?_, fun h => ?_⟩
  · rw [(frame_eq_none_iff s.cfg i).2 h, buildStep_none, raise_invalidArgument]
  · obtain ⟨f, hf⟩ := exists_frame_iff_wf.2 h
    exact ⟨f.word, f.len, by rw [hf, buildStep_some]⟩

/-- Settles O13: the frame's word is R66's formula for the row, whose fields fit and are read back. -/
theorem catalogueWordsArePacked : Obligations.CatalogueWordsArePacked := by
  intro i s k hw hk hs
  obtain ⟨f, hf, hword, hlen⟩ := frame_of_packing hw hk
  have hfits := packing_fits hw hk
  refine ⟨f.word, f.len, by rw [exec_build hs, hf, buildStep_some], hlen, hword, ?_⟩
  rw [hword]
  exact ⟨Packing.word_lt hfits, Packing.word_div_opcode hfits, Packing.word_mod_data hfits,
    fun _ ha => Packing.word_addr_and_data hfits ha⟩

/-- Settles O20: EXTRACT keeps R69's answer, and the invariant's encoding excludes a selector that builds nothing. -/
theorem extractFollowsTable : Obligations.ExtractFollowsTable := by
  intro s hs hr
  have hkeep : refExtract s.reqOp s.respWord.toNat = ((decodeRequest s.latched).keep s.respWord).toNat :=
    refExtract_eq_keep_decodeRequest s.latched s.respWord
  refine ⟨?_, hkeep ▸ BitVec.isLt _, fun hInv => ?_⟩
  · rw [step_extract hs hr, extractStep_eq_ended, hkeep, BitVec.ofNat_toNat, BitVec.setWidth_eq]; rfl
  · have henc := hInv.encoded (by rw [hs]; rfl)
    have hres : ¬ (s.reqOp = 0xE ∨ s.reqOp = 0xF) := fun h => by
      rw [refEncode_eq_frame_decodeRequest, frame_decodeRequest_of_reserved (r := s.latched) h] at henc
      cases henc
    exact not_or.1 hres

/-- Settles O28: the next state shows the frame and the extraction of the latched request, which nothing else feeds. -/
theorem encodeAndExtractArePure : Obligations.EncodeAndExtractArePure := by
  intro s s' t t' hr hr' ht ht'
  refine ⟨fun hs hs' hreq hcfg => ?_, fun hs hs' hreq hresp => ?_, fun hs hs' hop hD hb hb' => ?_⟩
  · rw [step_build hs hr] at ht
    rw [step_build hs' hr', ← hreq, ← hcfg] at ht'
    cases ht
    cases ht'
    cases (decodeRequest s.latched).frame s.cfg <;> simp
  · rw [step_extract hs hr, extractStep_eq_ended] at ht
    rw [step_extract hs' hr', extractStep_eq_ended, ← hreq, ← hresp] at ht'
    cases ht
    cases ht'
    rfl
  · rw [step_build hs hr] at ht
    rw [step_build hs' hr'] at ht'
    cases ht
    cases ht'
    obtain ⟨f, hf⟩ := Option.isSome_iff_exists.1 ((buildStep_fsm_eq_wrOut_iff _ _).1 hb)
    obtain ⟨g, hg⟩ := Option.isSome_iff_exists.1 ((buildStep_fsm_eq_wrOut_iff _ _).1 hb')
    rw [hf, hg]
    exact frame_len_eq_of_op_eq hf hg (by simpa [State.latched] using hop) (by simpa [State.latched] using hD)

/-- Settles O53: a reserved selector has no frame, so the step after acceptance raises InvalidArgument. -/
theorem reservedSelectorsCompleteInvalid : Obligations.ReservedSelectorsCompleteInvalid := by
  refine ⟨fun a s hs => ⟨?_, ?_⟩, fun s r x₀ x₁ rest hop hs hin hr₀ hq hr₁ => ?_⟩
  · rw [exec_build hs, ← raise_eq_ended]; rfl
  · rw [exec_build hs, ← raise_eq_ended]; rfl
  · have h₀ : step s = .next (s.accept r).tick :=
      step_idle_offered hs (by rw [input_of_inputs hin, hr₀]) (by rw [input_of_inputs hin, hq])
    have hin₁ : (s.accept r).tick.inputs = x₁ :: rest := by simp [hin]
    have h₁ := step_build (s := (s.accept r).tick) rfl (by rw [input_of_inputs hin₁, hr₁])
    rw [frame_decodeRequest_of_reserved (r := (s.accept r).tick.latched) hop, buildStep_none, raise_invalidArgument] at h₁
    rw [run_succ h₀, run_succ h₁, run_zero]
    simp [State.tick, State.accept, State.latching, hin]

/-- Settles O14: `ctrlWord` as a number, its listed values, and the event of each answered WR_CTRL step. -/
theorem controlWordValues : Obligations.ControlWordValues := by
  refine ⟨fun l => by rw [ctrlWord_toNat, shiftLeft_or_eq_add (by decide)], rfl, rfl, rfl, rfl, rfl, fun i s hs ha => ?_⟩
  rw [exec_wrCtrl hs]
  rcases wrCtrlStep_cases s with ⟨hnone, -⟩ | ⟨-, ht⟩ | ⟨v, -, ht⟩
  · exact absurd hnone ha
  · exact ⟨_, false, rfl, by rw [ht, raise_history, log_history]⟩
  · exact ⟨_, true, rfl, by rw [ht]⟩

end Sys2Proof

/-! The answered access primitives case by case, a step under another offer, and where a step can lead `fsm`; from them the
statements about the transaction's single steps (R75 to R77, R79 to R82, R84). -/

namespace Sys2Proof.Machine

/-! ## The access primitives, by the answer (R37, R38, R106) -/

section Answered

variable {s : State} {v : XWord} {ev : Bool → Event} {onOk : State → State}
  {n : Nat} {take : XWord → BitVec n} {evRead : Option (BitVec n) → Event} {onValue : BitVec n → State → State}

theorem memWrite_of_none (ha : s.input.answer = none) : s.memWrite ev onOk = s := by
  simp [State.memWrite, ha]

theorem memWrite_of_ok (ha : s.input.answer = some (.ok v)) : s.memWrite ev onOk = onOk (s.log (ev true)) := by
  simp [State.memWrite, ha]

theorem memWrite_of_err (ha : s.input.answer = some .err) :
    s.memWrite ev onOk = (s.log (ev false)).ended .transportError 0 := by
  simp [State.memWrite, ha, raise_eq_ended]

theorem memRead_of_none (ha : s.input.answer = none) : s.memRead take evRead onValue = s := by
  simp [State.memRead, ha]

theorem memRead_of_ok (ha : s.input.answer = some (.ok v)) :
    s.memRead take evRead onValue = onValue (take v) (s.log (evRead (some (take v)))) := by
  simp [State.memRead, ha]

theorem memRead_of_err (ha : s.input.answer = some .err) :
    s.memRead take evRead onValue = (s.log (evRead none)).ended .transportError 0 := by
  simp [State.memRead, ha, raise_eq_ended]

/-! ## POLL, by the value read (R81) -/

theorem pollStep_of_done (ha : s.input.answer = some (.ok v)) (hd : doneFlag (statusValue v) = true) :
    s.pollStep = { s with history := s.history ++ [.rStatus (some (statusValue v))], fsm := .rdIn } :=
  (memRead_of_ok ha).trans (if_pos hd)

theorem pollStep_of_limit (ha : s.input.answer = some (.ok v)) (hd : doneFlag (statusValue v) = false)
    (hl : s.pollCnt + 1 = s.cfg.pollLimit) :
    s.pollStep = (s.log (.rStatus (some (statusValue v)))).ended .deviceTimeout 0 :=
  (memRead_of_ok ha).trans <| (if_neg (Bool.eq_false_iff.1 hd)).trans <| (if_pos hl).trans (raise_eq_ended _ _)

theorem pollStep_of_below (ha : s.input.answer = some (.ok v)) (hd : doneFlag (statusValue v) = false)
    (hl : s.pollCnt + 1 ≠ s.cfg.pollLimit) :
    s.pollStep = { s with history := s.history ++ [.rStatus (some (statusValue v))], pollCnt := s.pollCnt + 1 } :=
  (memRead_of_ok ha).trans <| (if_neg (Bool.eq_false_iff.1 hd)).trans (if_neg hl)

end Answered

/-- Below POLL_LIMIT, a 32-bit value, one more poll does not wrap the counter (R8, R24). -/
theorem pollCnt_succ_toNat {s : State} (h : s.pollCnt.toNat < s.cfg.pollLimit.toNat) :
    (s.pollCnt + 1).toNat = s.pollCnt.toNat + 1 := by
  have hlim : s.cfg.pollLimit.toNat < 2 ^ 32 := BitVec.isLt _
  exact BitVec.toNat_add_of_lt (show s.pollCnt.toNat + 1 < 2 ^ 32 by omega)

/-! ## The same step under another offer (R77) -/

/-- `s` with `q` in place of what is offered in this step. -/
def State.reoffer (s : State) (q : Option Request) : State :=
  { s with inputs := { s.input with request := q } :: s.inputs.tail }

section Reoffer

variable (s : State) (q : Option Request)

@[simp] theorem reoffer_fsm : (s.reoffer q).fsm = s.fsm := rfl
@[simp] theorem reoffer_latched : (s.reoffer q).latched = s.latched := rfl
@[simp] theorem reoffer_input : (s.reoffer q).input = { s.input with request := q } := rfl
@[simp] theorem reoffer_tick : (s.reoffer q).tick = s.tick := rfl
@[simp] theorem reoffer_resetBlock_tick : (s.reoffer q).resetBlock.tick = s.resetBlock.tick := rfl

/-- A write access reads of its input only the answer. -/
theorem memWrite_reoffer (ev : Bool → Event) {onOk : State → State}
    (hOk : ∀ t, onOk (t.reoffer q) = (onOk t).reoffer q) :
    (s.reoffer q).memWrite ev onOk = (s.memWrite ev onOk).reoffer q := by
  cases ha : s.input.answer with
  | none => rw [memWrite_of_none ha, memWrite_of_none (by simpa using ha)]
  | some a =>
    cases a with
    | err => rw [memWrite_of_err ha, memWrite_of_err (by simpa using ha)]; rfl
    | ok v => rw [memWrite_of_ok ha, memWrite_of_ok (v := v) (by simpa using ha), ← hOk]; rfl

/-- So does a read access. -/
theorem memRead_reoffer {n : Nat} (take : XWord → BitVec n) (ev : Option (BitVec n) → Event)
    {onOk : BitVec n → State → State} (hOk : ∀ v t, onOk v (t.reoffer q) = (onOk v t).reoffer q) :
    (s.reoffer q).memRead take ev onOk = (s.memRead take ev onOk).reoffer q := by
  cases ha : s.input.answer with
  | none => rw [memRead_of_none ha, memRead_of_none (by simpa using ha)]
  | some a =>
    cases a with
    | err => rw [memRead_of_err ha, memRead_of_err (by simpa using ha)]; rfl
    | ok v => rw [memRead_of_ok ha, memRead_of_ok (v := v) (by simpa using ha), ← hOk]; rfl

theorem buildStep_reoffer (frame : Option CmdFrame) :
    (s.reoffer q).buildStep frame = (s.buildStep frame).reoffer q := by
  cases frame <;> rfl

theorem pollStep_reoffer : (s.reoffer q).pollStep = s.pollStep.reoffer q :=
  memRead_reoffer s q _ _ fun v t => by
    rw [apply_ite (State.reoffer · q), apply_ite (State.reoffer · q)]
    rfl

/-- The operation served does not read the offer. -/
theorem served_reoffer (i : Instr) : (s.reoffer q).served i = (s.served i).reoffer q := by
  unfold State.served
  rw [reoffer_fsm]
  cases s.fsm with
  | idle => rfl
  | build => exact buildStep_reoffer s q _
  | wrOut => exact memWrite_reoffer s q _ fun _ => rfl
  | wrCtrl => exact memWrite_reoffer s q _ fun _ => rfl
  | poll => exact pollStep_reoffer s q
  | rdIn => exact memRead_reoffer s q _ _ fun _ _ => rfl
  | extract => rfl
  | unused7 => rfl

end Reoffer

/-- A busy step does not read the offer: it serves the latched request, and afterwards the input is gone. -/
theorem step_reoffer {s : State} (hi : s.fsm ≠ .idle) (q : Option Request) : step (s.reoffer q) = step s := by
  by_cases h7 : s.fsm = .unused7
  · rw [step_refused h7, step_refused (s := s.reoffer q) h7]
  · rw [step_eq h7, step_eq (s := s.reoffer q) h7, fetch_busy hi, fetch_busy (s := s.reoffer q) hi]
    simp [served_reoffer]

/-! ## Where a step leads `fsm` (R16, R84), and the step that does nothing (R75) -/

theorem served_fsm_ne_unused7 {s : State} (i : Instr) (h7 : s.fsm ≠ .unused7) : (s.served i).fsm ≠ .unused7 := by
  by_cases hi : s.fsm = .idle
  · simp [State.served, hi]
  rcases served_busy_cases s i hi h7 with ⟨-, ⟨f, -, ht⟩ | ⟨-, ht⟩⟩ | ⟨-, ht⟩ | ⟨-, -, ht⟩ | ⟨e, -, -, -, ht⟩ | ⟨v, -, hok⟩
  · simp [ht]
  · simp [ht]
  · simp [ht]
  · rwa [ht]
  · simp [ht]
  · rcases hok with ⟨-, ht⟩ | ⟨-, ht⟩ | ⟨-, -, ht⟩ | ⟨-, -, -, ht⟩ | ⟨-, -, -, ht⟩ | ⟨-, ht⟩
    all_goals simp [ht, h7]

theorem step_fsm_ne_unused7 {s t : State} (h : step s = .next t) : t.fsm ≠ .unused7 := by
  obtain ⟨h7, ⟨-, rfl⟩ | ⟨-, -, -, rfl⟩ | ⟨r, -, -, -, rfl⟩ | ⟨-, -, rfl⟩⟩ := step_next_cases h
  · simp
  · exact h7
  · simp
  · exact served_fsm_ne_unused7 _ h7

theorem step_idle_unoffered {s : State} (hi : s.fsm = .idle) (hr : s.input.rst = false)
    (hq : s.input.request = none) : step s = .next s.tick := by
  rw [step_eq (by simp [hi])]; simp [hr, fetch_idle hi, hq]

end Sys2Proof.Machine

namespace Sys2Proof

open Machine

/-- Settles O9: the offer is read in IDLE only, so the same step runs with another one. -/
theorem busyBlockIgnoresOffers : Obligations.BusyBlockIgnoresOffers :=
  fun _ hi => ⟨decide_eq_false hi, step_reoffer hi⟩

/-- Settles O32: `exec` refuses 7 and nothing else, and no rule of the controller writes it. -/
theorem fsmSevenIsRefusedAndNeverWritten : Obligations.FsmSevenIsRefusedAndNeverWritten := by
  refine ⟨fun s hs => ⟨step_refused hs, fun i => ?_⟩, fun _ _ h => step_fsm_ne_unused7 h, fun i s t h => ?_⟩
  · rw [exec_eq, if_pos hs]
  · obtain ⟨h7, rfl⟩ := (exec_next_iff i s t).1 h
    exact served_fsm_ne_unused7 i h7

/-- Settles O7: with no reset and nothing to fetch, only the input passes. -/
theorem idleWithoutRequestChangesNothing : Obligations.IdleWithoutRequestChangesNothing :=
  fun _ hi hr hq => step_idle_unoffered hi hr hq

/-- Settles O8: in IDLE every operation is the acceptance of its request. -/
theorem acceptanceLatchesRequest : Obligations.AcceptanceLatchesRequest :=
  ⟨fun _ _ hi => exec_idle hi, fun _ _ hi hr hq => step_idle_offered hi hr hq⟩

/-- Settles O16: WR_OUT is one write access. -/
theorem outWriteStep : Obligations.OutWriteStep := by
  intro i s hs
  rw [exec_wrOut hs]
  exact ⟨fun v ha => congrArg _ (memWrite_of_ok ha), fun ha => congrArg _ (memWrite_of_err ha)⟩

/-- Settles O17: WR_CTRL is one write access. -/
theorem ctrlWriteStep : Obligations.CtrlWriteStep := by
  intro i s hs
  rw [exec_wrCtrl hs]
  exact ⟨fun v ha => congrArg _ (memWrite_of_ok ha), fun ha => congrArg _ (memWrite_of_err ha)⟩

/-- Settles O18: POLL is one read access, by the value read; the counter's bound is the invariant's. -/
theorem statusPollStep : Obligations.StatusPollStep := by
  intro i s hs
  rw [exec_poll hs]
  refine ⟨fun v ha => ⟨fun hd => ?_, fun hd hl => ?_, fun hd hl => ?_⟩, fun ha => ?_, fun hInv => ?_⟩
  · exact congrArg _ (pollStep_of_done ha hd)
  · exact congrArg _ (pollStep_of_limit ha hd hl)
  · exact congrArg _ (pollStep_of_below ha hd hl)
  · exact congrArg _ (memRead_of_err ha)
  · exact ⟨pollCnt_succ_toNat hInv.pollBelow, hInv.pollBelow⟩

/-- Settles O19: RD_IN is one read access. -/
theorem inboundReadStep : Obligations.InboundReadStep := by
  intro i s hs
  rw [exec_rdIn hs]
  exact ⟨fun v ha => congrArg _ (memRead_of_ok ha), fun ha => congrArg _ (memRead_of_err ha)⟩

end Sys2Proof

/-! The cause of each outcome, and the one form that every return to IDLE has; from them the statements about the errors and
about completion (R103, R108). -/

namespace Sys2Proof.Machine

/-- In state `s` a transaction may stop with this outcome and this value: the state it stops in, its cause and what is
recorded (R83, R103 to R106). -/
def State.mayEndWith (s : State) (val : XWord) : ResStatus → Prop
  | .ok => s.fsm = .extract ∧ val.toNat = refExtract s.reqOp s.respWord.toNat
  | .invalidArgument => s.fsm = .build ∧ refEncode s.cfg s.latched = none ∧ val = 0
  | .deviceTimeout => s.fsm = .poll ∧ s.pollCnt + 1 = s.cfg.pollLimit ∧
      (∃ v, s.input.answer = some (.ok v) ∧ doneFlag (statusValue v) = false) ∧ val = 0
  | .transportError => s.fsm.accessing = true ∧ s.input.answer = some .err ∧ val = 0

/-- Every error records no value (R28, R103). -/
theorem mayEndWith_error_value {s : State} {val : XWord} {st : ResStatus} (h : s.mayEndWith val st) (hst : st ≠ .ok) :
    val = 0 := by
  cases st with
  | ok => exact absurd rfl hst
  | invalidArgument => exact h.2.2
  | deviceTimeout => exact h.2.2.2
  | transportError => exact h.2.2

/-- A busy step on the latched request that leads to IDLE is a completion, with an outcome that has its cause. -/
theorem served_ends_with_cause {s : State} (hi : s.fsm ≠ .idle) (h7 : s.fsm ≠ .unused7)
    (hidle : (s.served (decodeRequest s.latched)).fsm = .idle) :
    ∃ hist st val, s.served (decodeRequest s.latched) = State.ended { s with history := hist } st val ∧
      s.mayEndWith val st := by
  rcases served_busy_cases s (decodeRequest s.latched) hi h7 with
    ⟨hs, ⟨f, -, ht⟩ | ⟨hf, ht⟩⟩ | ⟨hs, ht⟩ | ⟨-, -, ht⟩ | ⟨e, hacc, ha, -, ht⟩ | ⟨v, ha, hok⟩
  · simp [ht] at hidle
  · exact ⟨_, _, _, ht, hs, by rw [refEncode_eq_frame_decodeRequest, hf, Option.map_none], rfl⟩
  · exact ⟨_, _, _, ht, hs, (refExtract_eq_keep_decodeRequest s.latched s.respWord).symm⟩
  · exact absurd (ht ▸ hidle) hi
  · exact ⟨_, _, _, ht, hacc, ha, rfl⟩
  · rcases hok with ⟨-, ht⟩ | ⟨-, ht⟩ | ⟨-, -, ht⟩ | ⟨hs, hd, hl, ht⟩ | ⟨-, -, -, ht⟩ | ⟨-, ht⟩
    · simp [ht] at hidle
    · simp [ht] at hidle
    · simp [ht] at hidle
    · exact ⟨_, _, _, ht, hs, hl, ⟨v, ha, hd⟩, rfl⟩
    · exact absurd (by simpa [ht] using hidle) hi
    · simp [ht] at hidle

/-- So every return to IDLE without reset is a completion (R108). -/
theorem step_return_cases {s t : State} (h : step s = .next t) (hr : s.input.rst = false) (hi : s.fsm ≠ .idle)
    (hidle : t.fsm = .idle) :
    ∃ hist st val, t = (State.ended { s with history := hist } st val).tick ∧ s.mayEndWith val st := by
  obtain ⟨h7, ⟨hr', -⟩ | ⟨-, hi', -⟩ | ⟨r, -, hi', -⟩ | ⟨-, -, rfl⟩⟩ := step_next_cases h
  · simp [hr] at hr'
  · exact absurd hi' hi
  · exact absurd hi' hi
  · obtain ⟨hist, st, val, ht, hcause⟩ := served_ends_with_cause hi h7 hidle
    exact ⟨hist, st, val, congrArg State.tick ht, hcause⟩

/-- A step from IDLE makes no access (R75, R76). -/
theorem step_idle_history {s t : State} (hi : s.fsm = .idle) (h : step s = .next t) : t.history = s.history := by
  rcases step_history_cases h with hsame | ⟨e, -, hlog⟩
  · exact hsame
  · cases e <;> simp [State.canLog, hi] at hlog

end Sys2Proof.Machine

namespace Sys2Proof

open Machine

/-- Settles O23: every return to IDLE is a completion, whose outcome names its state. -/
theorem everyReturnToIdleCompletes : Obligations.EveryReturnToIdleCompletes := by
  intro s t h hr hi hidle
  obtain ⟨hist, st, val, rfl, hcause⟩ := step_return_cases h hr hi hidle
  refine ⟨rfl, mayEndWith_error_value hcause, ?_, ?_, ?_, ?_, fun u hu => step_idle_history hidle hu⟩
  · rintro rfl; exact hcause
  · rintro rfl; exact hcause.1
  · rintro rfl; exact hcause.1
  · rintro rfl; exact hcause.1

/-- Settles O24: every return to IDLE is a completion, whose outcome has its cause. -/
theorem outcomesAriseOnlyAsRuled : Obligations.OutcomesAriseOnlyAsRuled := by
  refine ⟨rfl, rfl, rfl, rfl, fun s t h hr hi hidle => ?_⟩
  obtain ⟨hist, st, val, rfl, hcause⟩ := step_return_cases h hr hi hidle
  refine ⟨?_, ?_, ?_, ?_, rfl, rfl⟩
  all_goals rintro rfl; exact hcause

end Sys2Proof

/-! The invariant of the block, register by register: what a state in IDLE needs to have it, what a step of a built transaction
keeps of it, and the accesses each state adds to `H`; from them the statements about the invariant (R8, R16, R22 to R28, R42,
R56). -/

namespace Sys2Proof.Machine

theorem pollLimit_pos {p : Params} (h : p.wf) : 0 < p.pollLimit.toNat :=
  Nat.pos_of_ne_zero fun h0 => h (BitVec.eq_of_toNat_eq h0)

/-- The free POLL_LIMIT of `State.reset` ranges within R8. -/
theorem openParams_wf : Config.openParams.wf := by
  have hlt := Config.freePollLimitPred.isLt
  intro h0
  have h := congrArg BitVec.toNat h0
  simp only [Config.openParams, BitVec.ofNat_eq_ofNat, BitVec.toNat_ofNat] at h
  omega

/-- The invariant reads neither the inputs nor `env_indeterminate`. -/
theorem inv_tick {s : State} (h : Inv s) : Inv s.tick :=
  { h with }

/-- In IDLE the invariant is about the parameters, the counters and the result registers alone. -/
theorem inv_of_idle {s : State} (hi : s.fsm = .idle) (hcfg : s.cfg.wf) (hpoll : s.pollCnt.toNat < s.cfg.pollLimit.toNat)
    (hlen : s.bitLen.toNat ≤ W) (hclear : s.resValid = false → s.resStatus = .ok ∧ s.resValue = 0)
    (herr : s.resStatus ≠ .ok → s.resValue = 0) : Inv s where
  cfgLegal := hcfg
  fsmLegal := by simp [hi]
  pollBelow := hpoll
  lenBelow := hlen
  encoded := by simp [hi, Fsm.built]
  busyUnanswered := fun hb => absurd hi hb
  clearUntilValid := hclear
  errorValueZero := herr
  accesses := by simp [State.accessesInOrder, hi]

/-- A completion leaves the invariant, if an error records no value (R28, R108). -/
theorem inv_ended {s : State} (h : Inv s) (hist : List Event) {st : ResStatus} {val : XWord} (hval : st ≠ .ok → val = 0) :
    Inv (State.ended { s with history := hist } st val) :=
  inv_of_idle rfl h.cfgLegal h.pollBelow h.lenBelow (fun hv => Bool.noConfusion hv) hval

theorem inv_resetBlock {s : State} (h : Inv s) : Inv s.resetBlock :=
  inv_of_idle rfl h.cfgLegal (pollLimit_pos h.cfgLegal) (Nat.zero_le _) (fun _ => ⟨rfl, rfl⟩) fun _ => rfl

/-- Acceptance clears the result (R76). -/
theorem inv_accept {s : State} (h : Inv s) (r : Request) : Inv (s.accept r) where
  cfgLegal := h.cfgLegal
  fsmLegal := by simp
  pollBelow := h.pollBelow
  lenBelow := h.lenBelow
  encoded := fun hb => Bool.noConfusion hb
  busyUnanswered := fun _ => rfl
  clearUntilValid := fun _ => ⟨rfl, rfl⟩
  errorValueZero := fun _ => rfl
  accesses := trivial

/-- BUILD puts R68's answer for the latched request into the command registers (R78). -/
theorem inv_built {s : State} (h : Inv s) (hs : s.fsm = .build) {f : CmdFrame}
    (hf : (decodeRequest s.latched).frame s.cfg = some f) :
    Inv { s with cmdWord := f.word, bitLen := f.len, fsm := .wrOut } :=
  { h with
    fsmLegal := Fsm.noConfusion
    lenBelow := (frame_len_legal hf).2
    encoded := fun _ => (refEncode_eq_frame_decodeRequest s.cfg s.latched).trans (by rw [hf]; rfl)
    busyUnanswered := fun _ => h.busyUnanswered (by simp [hs])
    accesses := trivial }

/-- A step from one built state to another keeps the invariant, if the counter stays below POLL_LIMIT and the accesses are in
order: it writes none of the other registers. -/
theorem inv_of_built_step {s : State} (h : Inv s) (hs : s.fsm.built = true) {hist : List Event} {f : Fsm} {n : BitVec 32}
    {v : XWord} (hf : f.built = true) (hn : n.toNat < s.cfg.pollLimit.toNat)
    (hacc : State.accessesInOrder { s with history := hist, fsm := f, pollCnt := n, respWord := v }) :
    Inv { s with history := hist, fsm := f, pollCnt := n, respWord := v } :=
  { h with
    fsmLegal := by rintro rfl; cases hf
    pollBelow := hn
    encoded := fun _ => h.encoded hs
    busyUnanswered := fun _ => h.busyUnanswered (by intro hi; rw [hi] at hs; cases hs)
    accesses := hacc }

/-! ## The accesses of the present transaction, one step on (R79 to R82) -/

section Accesses

variable {s : State}

theorem accesses_after_ctrl (h : s.accessesInOrder) (hs : s.fsm = .wrCtrl) : State.accessesInOrder { s with
    history := s.history ++ [.wCtrl (ctrlWord s.bitLen) true], pollCnt := 0, fsm := .poll } := by
  simp only [State.accessesInOrder, hs] at h
  obtain ⟨hist, hh⟩ := h
  exact ⟨hist, [], by simp [hh, State.started, statusReads], rfl, by simp⟩

theorem accesses_after_clear_read (h : s.accessesInOrder) (hs : s.fsm = .poll) {v : RegWord} (hv : doneFlag v = false)
    (hn : (s.pollCnt + 1).toNat = s.pollCnt.toNat + 1) : State.accessesInOrder { s with
    history := s.history ++ [.rStatus (some v)], pollCnt := s.pollCnt + 1 } := by
  simp only [State.accessesInOrder, hs] at h ⊢
  obtain ⟨hist, vs, hh, hlen, hclear⟩ := h
  refine ⟨hist, vs ++ [v], by simp [hh, State.started, statusReads], by rw [hn, ← hlen]; simp, fun u hu => ?_⟩
  rcases List.mem_append.1 hu with hu | hu
  · exact hclear u hu
  · rw [List.mem_singleton.1 hu, hv]

theorem accesses_after_done_read (h : s.accessesInOrder) (hs : s.fsm = .poll) {v : RegWord} (hv : doneFlag v = true) :
    State.accessesInOrder { s with history := s.history ++ [.rStatus (some v)], fsm := .rdIn } := by
  simp only [State.accessesInOrder, hs] at h
  obtain ⟨hist, vs, hh, hlen, hclear⟩ := h
  exact ⟨hist, vs, v, by rw [hh]; rfl, hlen, hclear, hv⟩

theorem accesses_after_in (h : s.accessesInOrder) (hs : s.fsm = .rdIn) (v : XWord) : State.accessesInOrder { s with
    history := s.history ++ [.rIn (some v)], respWord := v, fsm := .extract } := by
  simp only [State.accessesInOrder, hs] at h
  obtain ⟨hist, vs, d, hh, hlen, hclear, hd⟩ := h
  exact ⟨hist, vs, d, by simp [hh, State.started], hlen, hclear, hd⟩

end Accesses

/-- Every step of a busy block on the latched request keeps the invariant. -/
theorem inv_served {s : State} (h : Inv s) (hi : s.fsm ≠ .idle) : Inv (s.served (decodeRequest s.latched)) := by
  rcases served_busy_cases s (decodeRequest s.latched) hi h.fsmLegal with
    ⟨hs, ⟨f, hf, ht⟩ | ⟨-, ht⟩⟩ | ⟨-, ht⟩ | ⟨-, -, ht⟩ | ⟨e, -, -, -, ht⟩ | ⟨v, -, hok⟩
  · exact ht ▸ inv_built h hs hf
  · exact ht ▸ inv_ended h _ fun _ => rfl
  · exact ht ▸ inv_ended h _ fun hne => absurd rfl hne
  · rwa [ht]
  · exact ht ▸ inv_ended h _ fun _ => rfl
  · rcases hok with ⟨hs, ht⟩ | ⟨hs, ht⟩ | ⟨hs, hd, ht⟩ | ⟨hs, -, -, ht⟩ | ⟨hs, hd, hl, ht⟩ | ⟨hs, ht⟩
    · exact ht ▸ inv_of_built_step h (by rw [hs]; rfl) rfl h.pollBelow ⟨s.history, rfl⟩
    · exact ht ▸ inv_of_built_step h (by rw [hs]; rfl) rfl (pollLimit_pos h.cfgLegal) (accesses_after_ctrl h.accesses hs)
    · exact ht ▸ inv_of_built_step h (by rw [hs]; rfl) rfl h.pollBelow (accesses_after_done_read h.accesses hs hd)
    · exact ht ▸ inv_ended h _ fun _ => rfl
    · have hn := pollCnt_succ_toNat h.pollBelow
      have hne : (s.pollCnt + 1).toNat ≠ s.cfg.pollLimit.toNat := fun e => hl (BitVec.eq_of_toNat_eq e)
      have hbelow : (s.pollCnt + 1).toNat < s.cfg.pollLimit.toNat := by have := h.pollBelow; omega
      exact ht ▸ inv_of_built_step h (by rw [hs]; rfl) (by rw [hs]; rfl) hbelow (accesses_after_clear_read h.accesses hs hd hn)
    · exact ht ▸ inv_of_built_step h (by rw [hs]; rfl) rfl h.pollBelow (accesses_after_in h.accesses hs v)

end Sys2Proof.Machine

namespace Sys2Proof

open Machine

/-- Settles O36: by the four things a step can do, the busy one state by state. -/
theorem invariantKeptByEveryStep : Obligations.InvariantKeptByEveryStep := by
  intro s t h hst
  obtain ⟨-, ⟨-, rfl⟩ | ⟨-, -, -, rfl⟩ | ⟨r, -, -, -, rfl⟩ | ⟨-, hi, rfl⟩⟩ := step_next_cases hst
  · exact inv_tick (inv_resetBlock h)
  · exact inv_tick h
  · exact inv_tick (inv_accept h r)
  · exact inv_tick (inv_served h hi)

/-- Settles O35: the block starts in IDLE with a legal POLL_LIMIT and its registers clear. -/
theorem invariantHoldsAtReset : Obligations.InvariantHoldsAtReset :=
  inv_of_idle rfl openParams_wf (pollLimit_pos openParams_wf) (Nat.zero_le _) (fun _ => ⟨rfl, rfl⟩) fun _ => rfl

end Sys2Proof

/-! The packed view of a request read back field by field, and from it the statements about the decoder (R61 to R63). -/

namespace Sys2Proof

/-- A field of the packed request, as a number. -/
theorem extract_pack_toNat (r : Request) (start len : Nat) : (r.pack.extractLsb' start len).toNat =
    (r.op.toNat + r.addr.toNat * 2 ^ 4 + r.data.toNat * 2 ^ 36 + r.len.toNat * 2 ^ 68 + r.word.toNat * 2 ^ 76) /
      2 ^ start % 2 ^ len := by
  rw [BitVec.extractLsb'_toNat, pack_toNat, Nat.shiftRight_eq_div_pow]

/-- Packing loses no bit of a request (R61). -/
@[simp] theorem unpack_pack (r : Request) : Request.unpack r.pack = r := by
  have hop := r.op.isLt
  have haddr := r.addr.isLt
  have hdata := r.data.isLt
  have hlen := r.len.isLt
  have hword := r.word.isLt
  have eop : r.pack.extractLsb' 0 4 = r.op := pack_low4 r
  have eaddr : r.pack.extractLsb' 4 32 = r.addr := BitVec.eq_of_toNat_eq (by rw [extract_pack_toNat]; omega)
  have edata : r.pack.extractLsb' 36 32 = r.data := BitVec.eq_of_toNat_eq (by rw [extract_pack_toNat]; omega)
  have elen : r.pack.extractLsb' 68 8 = r.len := BitVec.eq_of_toNat_eq (by rw [extract_pack_toNat]; omega)
  have eword : r.pack.extractLsb' 76 64 = r.word := BitVec.eq_of_toNat_eq (by rw [extract_pack_toNat]; omega)
  rw [Request.unpack, eop, eaddr, edata, elen, eword]

/-- The five fields are all of the 140 bits (R61). -/
@[simp] theorem pack_unpack (w : BitVec 140) : (Request.unpack w).pack = w := by
  have hw := w.isLt
  apply BitVec.eq_of_toNat_eq
  simp only [pack_toNat, Request.unpack, BitVec.extractLsb'_toNat, Nat.shiftRight_eq_div_pow]
  omega

/-- The decoder on a 140-bit word is total. -/
theorem decode_toNat (w : BitVec 140) : decode w.toNat = .ok (decodeRequest (Request.unpack w)) := by
  rw [decode, if_pos w.isLt, BitVec.ofNat_toNat, BitVec.setWidth_eq]

theorem encode_decodeRequest_unpack (w : BitVec 140) : encode (decodeRequest (Request.unpack w)) = w := by
  rw [encode, encodeRequest_decodeRequest, pack_unpack]

/-- Settles O1: packing and the OPSEL map are both read back. -/
theorem decodeOfEncodeIsIdentity : Obligations.DecodeOfEncodeIsIdentity := fun i => by
  rw [decode_toNat, encode, unpack_pack, decodeRequest_encodeRequest]

/-- Settles O2: a number below 2^140 is a 140-bit word, which is the request of the operation it decodes to. -/
theorem encodeOfDecodeIsIdentity : Obligations.EncodeOfDecodeIsIdentity := by
  refine fun w => ⟨fun hw => ?_, fun hw => if_neg (by omega)⟩
  have hnat : (BitVec.ofNat 140 w).toNat = w := by rw [BitVec.toNat_ofNat, Nat.mod_eq_of_lt hw]
  refine ⟨decodeRequest (Request.unpack (BitVec.ofNat 140 w)), ?_, ?_⟩
  · rw [← decode_toNat, hnat]
  · rw [encode_decodeRequest_unpack, hnat]

/-- Settles O3: four fixed words, evaluated. -/
theorem specRequestWordsDecode : Obligations.SpecRequestWordsDecode := by
  refine ⟨?_, ?_, ?_, ?_⟩ <;> decide

/-- Settles O4: row by row, the request of an operation selects that operation. -/
theorem selectorMapFollowsTable : Obligations.SelectorMapFollowsTable := fun a =>
  ⟨decodeRequest_encodeRequest (.readId a), decodeRequest_encodeRequest (.writeEnable a),
    decodeRequest_encodeRequest (.writeDisable a), decodeRequest_encodeRequest (.readStatus a),
    decodeRequest_encodeRequest (.writeStatus a), decodeRequest_encodeRequest (.eraseSector a),
    decodeRequest_encodeRequest (.readSectorLock a), decodeRequest_encodeRequest (.writeSectorLock a),
    decodeRequest_encodeRequest (.readByte a), decodeRequest_encodeRequest (.writeByte a),
    decodeRequest_encodeRequest (.readNonvolatileConfig a), decodeRequest_encodeRequest (.writeNonvolatileConfig a),
    decodeRequest_encodeRequest (.bulkErase a), decodeRequest_encodeRequest (.transfer a),
    decodeRequest_encodeRequest (.reservedE a), decodeRequest_encodeRequest (.reservedF a)⟩

end Sys2Proof

/-! The step as the operation of the fetched request, what an unanswered access and each state's step leave as they are, and
the state after reset; from them the statements about the step, its frame and reset (R14, R29, R33 to R35, R65, R74 to R88,
R118 to R123). -/

namespace Sys2Proof.Machine

/-! ## The step runs the operation at hand (R74 to R77) -/

/-- Without reset, a step on a fetched request is the request's operation and one input passed. -/
theorem step_of_fetch {s : State} {r : Request} (hr : s.input.rst = false) (hf : s.fetch = some r) :
    step s = afterTick (exec (decodeRequest r) s) := by
  by_cases h7 : s.fsm = .unused7
  · rw [step_refused h7, exec_eq, if_pos h7, afterTick]
  · rw [step_eq h7, exec_eq, if_neg h7, hr, hf]; rfl

theorem step_of_exec {s t : State} {r : Request} (hr : s.input.rst = false) (hf : s.fetch = some r)
    (ht : exec (decodeRequest r) s = .next t) : step s = .next t.tick := by
  rw [step_of_fetch hr hf, ht, afterTick]

/-- The operation of a table word is that of its packed request. -/
theorem decodeRequest_of_tableWord {nbits w : Nat} {i : Instr} (h : decodeTableWord nbits w = some i) :
    decodeRequest (Request.unpack (BitVec.ofNat 140 (w % 2 ^ nbits))) = i := by
  by_cases hw : w % 2 ^ nbits < 2 ^ 140
  · rw [decodeTableWord, decode, if_pos hw] at h
    exact Option.some.inj h
  · rw [decodeTableWord, decode, if_neg hw] at h
    cases h

/-! ## Operations that build and keep the same (R65) -/

/-- After acceptance an operation is its frame and its extraction. -/
theorem exec_congr {i j : Instr} {s : State} (hi : s.fsm ≠ .idle) (hframe : i.frame s.cfg = j.frame s.cfg)
    (hkeep : i.keep = j.keep) : exec i s = exec j s := by
  rw [exec_eq_serve, exec_eq_serve, hframe, hkeep]
  unfold serve
  cases hs : s.fsm with
  | idle => exact absurd hs hi
  | _ => rfl

theorem frame_usedOnly (p : Params) (i : Instr) : i.usedOnly.frame p = i.frame p := by
  cases i <;> rfl

theorem keep_usedOnly (i : Instr) : i.usedOnly.keep = i.keep := by
  cases i <;> rfl

/-- In an access state the operation does not matter. -/
theorem exec_accessing (i j : Instr) {s : State} (ha : s.fsm.accessing = true) : exec i s = exec j s := by
  cases hs : s.fsm with
  | wrOut => rw [exec_wrOut hs, exec_wrOut hs]
  | wrCtrl => rw [exec_wrCtrl hs, exec_wrCtrl hs]
  | poll => rw [exec_poll hs, exec_poll hs]
  | rdIn => rw [exec_rdIn hs, exec_rdIn hs]
  | _ => rw [hs] at ha; cases ha

/-! ## Accesses and their answers (R87, R88) -/

theorem accessing_ne_idle {f : Fsm} (h : f.accessing = true) : f ≠ .idle := by rintro rfl; cases h
theorem accessing_ne_unused7 {f : Fsm} (h : f.accessing = true) : f ≠ .unused7 := by rintro rfl; cases h

theorem exec_unanswered (i : Instr) {s : State} (hacc : s.fsm.accessing = true) (ha : s.input.answer = none) :
    exec i s = .next s := by
  cases hs : s.fsm with
  | wrOut => rw [exec_wrOut hs, State.wrOutStep, memWrite_of_none ha]
  | wrCtrl => rw [exec_wrCtrl hs, State.wrCtrlStep, memWrite_of_none ha]
  | poll => rw [exec_poll hs, State.pollStep, memRead_of_none ha]
  | rdIn => rw [exec_rdIn hs, State.rdInStep, memRead_of_none ha]
  | _ => rw [hs] at hacc; cases hacc

theorem step_unanswered {s : State} (hacc : s.fsm.accessing = true) (ha : s.input.answer = none)
    (hr : s.input.rst = false) : step s = .next s.tick :=
  step_of_exec hr (fetch_busy (accessing_ne_idle hacc)) (exec_unanswered _ hacc ha)

theorem step_reset {s : State} (h7 : s.fsm ≠ .unused7) (hr : s.input.rst = true) : step s = .next s.resetBlock.tick := by
  rw [step_eq h7, if_pos hr]

theorem accessing_of_canLog {s : State} {e : Event} (h : s.canLog e) : s.fsm.accessing = true := by
  cases e with
  | wOut v b => rw [h.1]; rfl
  | wCtrl v b => rw [h.1]; rfl
  | rStatus v => rw [show s.fsm = .poll from h]; rfl
  | rIn v => rw [show s.fsm = .rdIn from h]; rfl

/-- A step that appended an event was an answered access. -/
theorem answered_of_step_appends {s t : State} {e : Event} (h : step s = .next t) (ht : t.history = s.history ++ [e]) :
    s.fsm.accessing = true ∧ s.input.rst = false ∧ s.input.answer ≠ none := by
  have hacc := accessing_of_canLog (canLog_of_step_appends h ht)
  have hrst : s.input.rst = false := by
    by_contra hr
    cases h.symm.trans (step_reset (accessing_ne_unused7 hacc) (by simpa using hr))
    simp at ht
  refine ⟨hacc, hrst, fun ha => ?_⟩
  cases h.symm.trans (step_unanswered hacc ha hrst)
  simp at ht

@[simp] theorem ended_cfg (s : State) (st : ResStatus) (val : XWord) : (s.ended st val).cfg = s.cfg := rfl

theorem served_cfg {s : State} (i : Instr) : (s.served i).cfg = s.cfg := by
  by_cases hi : s.fsm = .idle
  · simp [State.served, hi]
  by_cases h7 : s.fsm = .unused7
  · simp [State.served, h7]
  rcases served_busy_cases s i hi h7 with ⟨-, ⟨f, -, ht⟩ | ⟨-, ht⟩⟩ | ⟨-, ht⟩ | ⟨-, -, ht⟩ | ⟨e, -, -, -, ht⟩ | ⟨v, -, hok⟩
  · simp [ht]
  · simp [ht]
  · simp [ht]
  · simp [ht]
  · simp [ht]
  · rcases hok with ⟨-, ht⟩ | ⟨-, ht⟩ | ⟨-, -, ht⟩ | ⟨-, -, -, ht⟩ | ⟨-, -, -, ht⟩ | ⟨-, ht⟩
    all_goals simp [ht]

theorem step_cfg {s t : State} (h : step s = .next t) : t.cfg = s.cfg := by
  obtain ⟨-, ⟨-, rfl⟩ | ⟨-, -, -, rfl⟩ | ⟨r, -, -, -, rfl⟩ | ⟨-, -, rfl⟩⟩ := step_next_cases h
  · rfl
  · rfl
  · rfl
  · exact served_cfg _

/-! ## The frame of each state's step (R34, R78 to R83) -/

section Frame

variable (s : State)

theorem buildStep_frame (o : Option CmdFrame) :
    s.buildStep o = { s with
      cmdWord := (s.buildStep o).cmdWord, bitLen := (s.buildStep o).bitLen, fsm := (s.buildStep o).fsm } ∨
    s.buildStep o = { s with
      resValid := (s.buildStep o).resValid, resStatus := (s.buildStep o).resStatus
      resValue := (s.buildStep o).resValue, fsm := .idle } := by
  cases o with
  | none => exact .inr (by rw [buildStep_none, raise_invalidArgument])
  | some f => exact .inl rfl

theorem wrOutStep_frame :
    s.wrOutStep = { s with history := s.wrOutStep.history, fsm := s.wrOutStep.fsm } ∨
    s.wrOutStep = State.ended { s with history := s.wrOutStep.history } .transportError 0 := by
  rcases wrOutStep_cases s with ⟨-, e⟩ | ⟨-, e⟩ | ⟨v, -, e⟩
  · exact .inl (by rw [e])
  · exact .inr (by rw [e, raise_eq_ended]; rfl)
  · exact .inl (by rw [e])

theorem wrCtrlStep_frame :
    s.wrCtrlStep = { s with
      history := s.wrCtrlStep.history, pollCnt := s.wrCtrlStep.pollCnt, fsm := s.wrCtrlStep.fsm } ∨
    s.wrCtrlStep = State.ended { s with history := s.wrCtrlStep.history } .transportError 0 := by
  rcases wrCtrlStep_cases s with ⟨-, e⟩ | ⟨-, e⟩ | ⟨v, -, e⟩
  · exact .inl (by rw [e])
  · exact .inr (by rw [e, raise_eq_ended]; rfl)
  · exact .inl (by rw [e])

theorem pollStep_frame :
    s.pollStep = { s with history := s.pollStep.history, pollCnt := s.pollStep.pollCnt } ∨
    s.pollStep = { s with history := s.pollStep.history, fsm := .rdIn } ∨
    s.pollStep = State.ended { s with history := s.pollStep.history } .deviceTimeout 0 ∨
    s.pollStep = State.ended { s with history := s.pollStep.history } .transportError 0 := by
  rcases pollStep_cases s with ⟨-, e⟩ | ⟨-, e⟩ | ⟨v, -, ⟨-, e⟩ | ⟨-, -, e⟩ | ⟨-, -, e⟩⟩
  · exact .inl (by rw [e])
  · exact .inr (.inr (.inr (by rw [e, raise_eq_ended]; rfl)))
  · exact .inr (.inl (by rw [e]))
  · exact .inr (.inr (.inl (by rw [e, raise_eq_ended]; rfl)))
  · exact .inl (by rw [e])

theorem rdInStep_frame :
    s.rdInStep = { s with
      history := s.rdInStep.history, respWord := s.rdInStep.respWord, fsm := s.rdInStep.fsm } ∨
    s.rdInStep = State.ended { s with history := s.rdInStep.history } .transportError 0 := by
  rcases rdInStep_cases s with ⟨-, e⟩ | ⟨-, e⟩ | ⟨v, -, e⟩
  · exact .inl (by rw [e])
  · exact .inr (by rw [e, raise_eq_ended]; rfl)
  · exact .inl (by rw [e])

end Frame

/-- Whatever the operation, one step of it adds at most one event to `H`. -/
theorem exec_history_cases {i : Instr} {s t : State} (h : exec i s = .next t) :
    t.history = s.history ∨ ∃ e, t.history = s.history ++ [e] := by
  obtain ⟨h7, rfl⟩ := (exec_next_iff i s t).1 h
  by_cases hi : s.fsm = .idle
  · exact .inl (by simp [State.served, hi])
  · exact (served_history_cases i hi h7).imp_right fun ⟨e, he, _⟩ => ⟨e, he⟩

/-- The port shows the result registers and whether the block is busy (R29). -/
theorem outputs_eq (s : State) : s.outputs = ⟨!s.busy, s.busy, s.resValid, s.resStatus.code, s.resValue⟩ := by
  simp [State.outputs, State.reqReady, State.busy]

end Sys2Proof.Machine

namespace Sys2Proof

open Machine

/-- Settles O12: an operation's frame and extraction are those of the request with its used fields alone. -/
theorem unusedFieldsAffectNothing : Obligations.UnusedFieldsAffectNothing := fun i j s h hi =>
  exec_congr hi (by rw [← frame_usedOnly s.cfg i, h, frame_usedOnly]) (by rw [← keep_usedOnly i, h, keep_usedOnly])

/-- Settles O22: a step appends at most one event, and one that does is an answered access. -/
theorem oneAccessAtATime : Obligations.OneAccessAtATime := fun _ _ h =>
  (step_history_cases h).imp_right fun ⟨e, he, _⟩ => ⟨e, he, answered_of_step_appends h he⟩

/-- Settles O27: of the four things a step can do, the premises leave the silent one in IDLE and the busy step that stays
busy. -/
theorem resultHeldUntilNextAcceptance : Obligations.ResultHeldUntilNextAcceptance := by
  intro s t h hr hacc hend
  obtain ⟨h7, ⟨hr', -⟩ | ⟨-, -, -, rfl⟩ | ⟨r, -, hi, hq, -⟩ | ⟨-, hi, rfl⟩⟩ := step_next_cases h
  · simp [hr] at hr'
  · exact ⟨rfl, rfl, rfl⟩
  · exact absurd ⟨hi, by simp [hq]⟩ hacc
  · rcases served_ends_or_stays_busy (decodeRequest s.latched) hi h7 with ⟨hist, st, val, ht⟩ | ⟨-, hv, hs, hx, -⟩
    · exact absurd ⟨hi, by rw [tick_fsm, ht, ended_fsm]⟩ hend
    · exact ⟨hv, hs, hx⟩

/-- Settles O30: state by state, by the frame of its step. -/
theorem operationsWriteOnlyTheirRegisters : Obligations.OperationsWriteOnlyTheirRegisters := by
  refine ⟨fun i s t h => ⟨fun hs => ?_, fun hs => ?_, fun hs => ?_, fun hs => ?_, fun hs => ?_, fun hs => ?_, fun hs => ?_,
    exec_history_cases h⟩, fun i j s ha => exec_accessing i j ha, fun s t hv hst hx hb => ?_⟩
  · rw [exec_idle hs] at h; cases h; rfl
  · rw [exec_build hs] at h; cases h; exact buildStep_frame s _
  · rw [exec_wrOut hs] at h; cases h; exact wrOutStep_frame s
  · rw [exec_wrCtrl hs] at h; cases h; exact wrCtrlStep_frame s
  · rw [exec_poll hs] at h; cases h; exact pollStep_frame s
  · rw [exec_rdIn hs] at h; cases h; exact rdInStep_frame s
  · rw [exec_extract hs, extractStep_eq_ended] at h; cases h; simp [State.ended]
  · rw [outputs_eq, outputs_eq, hv, hst, hx, hb]

/-- Settles O31: no step writes `cfg`. -/
theorem parametersNeverChange : Obligations.ParametersNeverChange := fun _ _ h => step_cfg h

/-- Settles O5: the word at hand is the fetched request, and `exec` runs on what it decodes to. -/
theorem stepRunsDecodedOperation : Obligations.StepRunsDecodedOperation := by
  intro s w i hdec hr hreq
  have hf : s.fetch = some (Request.unpack w) := by
    rcases hreq with ⟨hi, hq⟩ | ⟨hi, hl⟩
    · rw [fetch_idle hi, hq]
    · rw [fetch_busy hi, hl]
  obtain rfl : decodeRequest (Request.unpack w) = i := by simpa [decode_toNat] using hdec
  rw [step_of_fetch hr hf]
  exact ⟨fun t h => by rw [h]; rfl, fun f h => by rw [h]; rfl⟩

/-- Settles O6: the placed request is offered in IDLE, where its operation is the acceptance. -/
theorem fetchWordRunsNext : Obligations.FetchWordRunsNext := by
  intro s nbits w i hdec
  obtain rfl := decodeRequest_of_tableWord hdec
  have hexec := exec_idle (i := decodeRequest (Request.unpack (BitVec.ofNat 140 (w % 2 ^ nbits))))
    (s := s.withFetchWord nbits w) rfl
  exact ⟨_, hexec, step_of_exec rfl rfl hexec⟩

/-- Settles O21: without an answer neither access primitive does anything. -/
theorem unansweredAccessWaits : Obligations.UnansweredAccessWaits := fun i _ hacc ha =>
  ⟨exec_unanswered i hacc ha, fun hr => step_unanswered hacc ha hr⟩

/-- Settles O25: `Err` is tested before the value, and the done flag before the limit. -/
theorem lastPollPriority : Obligations.LastPollPriority := by
  intro i s hs _
  rw [exec_poll hs]
  exact ⟨fun ha => ⟨_, rfl, by rw [State.pollStep, memRead_of_err ha]; exact ⟨rfl, rfl⟩⟩,
    fun v ha hd => ⟨_, rfl, by rw [pollStep_of_done ha hd]; exact ⟨rfl, rfl⟩⟩⟩

/-- Settles O29: the outputs, signal by signal. -/
theorem outputsShowResultAndBusy : Obligations.OutputsShowResultAndBusy := fun _ =>
  ⟨decide_eq_true_iff, decide_eq_true_iff, rfl, rfl, rfl⟩

/-- Settles O33: reset goes before everything else, and `resetBlock` writes every register. -/
theorem resetSetsEveryRegister : Obligations.ResetSetsEveryRegister := fun _ h7 hr => step_reset h7 hr

/-- Settles O34: `State.reset` field by field; its POLL_LIMIT is within R8. -/
theorem stateAfterReset : Obligations.StateAfterReset := ⟨rfl, rfl, openParams_wf⟩

end Sys2Proof

/-! BUILD, its refusal and EXTRACT of an operation by R68's row for it, the words and extractions as bit vectors; from them what
each operation builds and results in (R89 to R102). -/

namespace Sys2Proof.Machine

section Operation

variable {i : Instr} {s : State}

/-- BUILD of an operation whose row gives a word and a length (R68, R78). -/
theorem exec_builds {w l : Nat} {word : XWord} {len : BitLen} (hs : s.fsm = .build)
    (h : refEncode s.cfg (encodeRequest i) = some (w, l)) (hw : BitVec.ofNat 40 w = word) (hl : BitVec.ofNat 8 l = len) :
    exec i s = .next { s with cmdWord := word, bitLen := len, fsm := .wrOut } := by
  rw [refEncode_eq_frame] at h
  obtain ⟨f, hf, hfwl⟩ := Option.map_eq_some_iff.1 h
  cases hfwl
  rw [exec_build hs, hf, buildStep_some, ← hw, ← hl, BitVec.ofNat_toNat, BitVec.ofNat_toNat, BitVec.setWidth_eq,
    BitVec.setWidth_eq]

/-- BUILD of an operation whose row is Invalid (R68, R104). -/
theorem exec_refuses (hs : s.fsm = .build) (h : refEncode s.cfg (encodeRequest i) = none) :
    exec i s = .next (s.ended .invalidArgument 0) := by
  rw [refEncode_eq_frame] at h
  rw [exec_build hs, Option.map_eq_none_iff.1 h, buildStep_none, raise_eq_ended]

/-- EXTRACT of an operation that keeps `v` of `resp_word` (R69, R83). -/
theorem exec_extracts {v : XWord} (hs : s.fsm = .extract) (hv : i.keep s.respWord = v) :
    exec i s = .next (s.ended .ok v) := by
  rw [exec_extract hs, extractStep_eq_ended, hv]

end Operation

/-! ## Words and extractions as bit vectors (R67, R69) -/

theorem ofNat_shiftLeft (w n k : Nat) : BitVec.ofNat w (n <<< k) = BitVec.ofNat w n <<< k := by
  apply BitVec.eq_of_toNat_eq
  simp [Nat.shiftLeft_eq]

theorem keepLow8_eq_and (v : XWord) : keepLow8 v = v &&& 0xFF :=
  BitVec.eq_of_toNat_eq (by rw [keepLow8_toNat, BitVec.toNat_and]; exact (Nat.and_two_pow_sub_one_eq_mod _ 8).symm)

theorem keepLow16_eq_and (v : XWord) : keepLow16 v = v &&& 0xFFFF :=
  BitVec.eq_of_toNat_eq (by rw [keepLow16_toNat, BitVec.toNat_and]; exact (Nat.and_two_pow_sub_one_eq_mod _ 16).symm)

theorem keepLow24_eq_and (v : XWord) : keepLow24 v = v &&& 0xFFFFFF :=
  BitVec.eq_of_toNat_eq (by rw [keepLow24_toNat, BitVec.toNat_and]; exact (Nat.and_two_pow_sub_one_eq_mod _ 24).symm)

section Words

variable {n m k : Nat} (o : BitVec n) (a : BitVec m) (d : BitVec k)

/-- An opcode above a zero slot of `j` bits. -/
theorem ofNat_opcode (j : Nat) : BitVec.ofNat 40 (o.toNat <<< j) = o.setWidth 40 <<< j := by
  rw [ofNat_shiftLeft, BitVec.ofNat_toNat]

/-- An opcode above a slot of `j` bits. -/
theorem ofNat_opcode_slot (j : Nat) :
    BitVec.ofNat 40 ((o.toNat <<< j) ||| d.toNat) = (o.setWidth 40 <<< j) ||| d.setWidth 40 := by
  rw [BitVec.ofNat_or, ofNat_opcode, BitVec.ofNat_toNat]

/-- An opcode above an address above a zero byte. -/
theorem ofNat_opcode_addr : BitVec.ofNat 40 ((o.toNat <<< 32) ||| (a.toNat <<< 8)) =
    (o.setWidth 40 <<< 32) ||| (a.setWidth 40 <<< 8) := by
  rw [BitVec.ofNat_or, ofNat_opcode, ofNat_opcode]

/-- An opcode above an address above a byte. -/
theorem ofNat_opcode_addr_slot : BitVec.ofNat 40 ((o.toNat <<< 32) ||| (a.toNat <<< 8) ||| d.toNat) =
    (o.setWidth 40 <<< 32) ||| (a.setWidth 40 <<< 8) ||| d.setWidth 40 := by
  rw [BitVec.ofNat_or, ofNat_opcode_addr, BitVec.ofNat_toNat]

end Words

end Sys2Proof.Machine

namespace Sys2Proof

open Machine

/-- Settles O45: the row of read_id. -/
theorem readIdBuildsAndResults : Obligations.ReadIdBuildsAndResults := fun a _ =>
  ⟨fun hs => exec_builds hs (refEncode_readId _ a) (ofNat_opcode _ 24) rfl,
    fun hs => exec_extracts hs (keepLow24_eq_and _)⟩

/-- Settles O46: the rows of the bare commands. -/
theorem bareCommandsBuildAndResult : Obligations.BareCommandsBuildAndResult := fun a _ =>
  ⟨fun hs => ⟨exec_builds hs (refEncode_writeEnable _ a) (BitVec.ofNat_toNat ..) rfl,
      exec_builds hs (refEncode_writeDisable _ a) (BitVec.ofNat_toNat ..) rfl,
      exec_builds hs (refEncode_bulkErase _ a) (BitVec.ofNat_toNat ..) rfl⟩,
    fun hs => ⟨exec_extracts hs rfl, exec_extracts hs rfl, exec_extracts hs rfl⟩⟩

/-- Settles O47: the rows of read_status and write_status, the second on both sides of its bound. -/
theorem statusOperationsBuildAndResult : Obligations.StatusOperationsBuildAndResult := fun a _ =>
  ⟨fun hs => exec_builds hs (refEncode_readStatus _ a) (ofNat_opcode _ 8) rfl,
    fun hs hd => exec_builds hs ((refEncode_writeStatus _ a).trans (if_neg (Nat.not_le.2 hd))) (ofNat_opcode_slot _ _ 8) rfl,
    fun hs hd => exec_refuses hs ((refEncode_writeStatus _ a).trans (if_pos hd)),
    fun hs => ⟨exec_extracts hs (keepLow8_eq_and _), exec_extracts hs rfl⟩⟩

/-- Settles O48: the row of erase_sector, on both sides of its bound. -/
theorem eraseSectorBuildsAndResults : Obligations.EraseSectorBuildsAndResults := fun a _ =>
  ⟨fun hs ha => exec_builds hs ((refEncode_eraseSector _ a).trans (if_neg (Nat.not_le.2 ha)))
      (ofNat_opcode_slot Config.opcSectorErase _ 24) rfl,
    fun hs ha => exec_refuses hs ((refEncode_eraseSector _ a).trans (if_pos ha)),
    fun hs => exec_extracts hs rfl⟩

/-- Settles O49: the rows of the sector-lock operations, on both sides of their bounds. -/
theorem sectorLockOperationsBuildAndResult : Obligations.SectorLockOperationsBuildAndResult := fun a _ =>
  ⟨fun hs ha => exec_builds hs ((refEncode_readSectorLock _ a).trans (if_neg (Nat.not_le.2 ha))) (ofNat_opcode_addr _ _) rfl,
    fun hs ha => exec_refuses hs ((refEncode_readSectorLock _ a).trans (if_pos ha)),
    fun hs ha hd => exec_builds hs
      ((refEncode_writeSectorLock _ a).trans (if_neg (not_or.2 ⟨Nat.not_le.2 ha, Nat.not_le.2 hd⟩)))
      (ofNat_opcode_addr_slot _ _ _) rfl,
    fun hs h => exec_refuses hs ((refEncode_writeSectorLock _ a).trans (if_pos h)),
    fun hs => ⟨exec_extracts hs (keepLow8_eq_and _), exec_extracts hs rfl⟩⟩

/-- Settles O50: the rows of the byte operations, on both sides of their bounds. -/
theorem byteOperationsBuildAndResult : Obligations.ByteOperationsBuildAndResult := fun a _ =>
  ⟨fun hs ha => exec_builds hs ((refEncode_readByte _ a).trans (if_neg (Nat.not_le.2 ha))) (ofNat_opcode_addr _ _) rfl,
    fun hs ha => exec_refuses hs ((refEncode_readByte _ a).trans (if_pos ha)),
    fun hs ha hd => exec_builds hs
      ((refEncode_writeByte _ a).trans (if_neg (not_or.2 ⟨Nat.not_le.2 ha, Nat.not_le.2 hd⟩)))
      (ofNat_opcode_addr_slot _ _ _) rfl,
    fun hs h => exec_refuses hs ((refEncode_writeByte _ a).trans (if_pos h)),
    fun hs => ⟨exec_extracts hs (keepLow8_eq_and _), exec_extracts hs rfl⟩⟩

/-- Settles O51: the rows of the non-volatile configuration operations, the second on both sides of its bound. -/
theorem nvConfigOperationsBuildAndResult : Obligations.NvConfigOperationsBuildAndResult := fun a _ =>
  ⟨fun hs => exec_builds hs (refEncode_readNonvolatileConfig _ a) (ofNat_opcode _ 16) rfl,
    fun hs hd => exec_builds hs ((refEncode_writeNonvolatileConfig _ a).trans (if_neg (Nat.not_le.2 hd)))
      (ofNat_opcode_slot _ _ 16) rfl,
    fun hs hd => exec_refuses hs ((refEncode_writeNonvolatileConfig _ a).trans (if_pos hd)),
    fun hs => ⟨exec_extracts hs (keepLow16_eq_and _), exec_extracts hs rfl⟩⟩

/-- Settles O52: the row of transfer, on both sides of each bound. -/
theorem transferBuildsAndResults : Obligations.TransferBuildsAndResults := fun a _ =>
  ⟨fun hs h0 hl hw => exec_builds hs
      ((refEncode_transfer _ a).trans (if_neg (not_or.2 ⟨h0, not_or.2 ⟨Nat.not_lt.2 hl, Nat.not_le.2 hw⟩⟩)))
      (BitVec.ofNat_toNat ..) ((BitVec.ofNat_toNat 8 _).trans (BitVec.setWidth_eq _)),
    fun hs h => exec_refuses hs ((refEncode_transfer _ a).trans (if_pos h)),
    fun hs => exec_extracts hs rfl⟩

end Sys2Proof

/-! The answered step of each busy state, the stages of a transaction and the runs between them; from them the whole
transactions (R85) and the bound on their length (R86). -/

namespace Sys2Proof.Machine

/-! ## Runs -/

/-- A run continues from where its first part ends. -/
theorem run_add {s t : State} {m : Nat} (h : Sys2Proof.core.run m s = .next t) (n : Nat) :
    Sys2Proof.core.run (m + n) s = Sys2Proof.core.run n t := by
  induction m generalizing s with
  | zero => cases h; rw [Nat.zero_add]
  | succ m ih =>
    cases hst : step s with
    | next u => rw [run_succ hst] at h; rw [Nat.succ_add, run_succ hst, ih h]
    | fault f => simp only [Host.Core.run, show Sys2Proof.core.step s = .fault f from hst] at h; cases h
    | refused f => simp only [Host.Core.run, show Sys2Proof.core.step s = .refused f from hst] at h; cases h

/-! ## The answered step of each busy state (R78 to R83, R106) -/

section AnsweredStep

variable {s : State} {v : XWord}

theorem step_build_some {w l : Nat} (hs : s.fsm = .build) (hr : s.input.rst = false)
    (henc : refEncode s.cfg s.latched = some (w, l)) :
    step s = .next { s.building w l with inputs := s.inputs.tail, fsm := .wrOut } :=
  ((buildFollowsEncodeTable s hs hr).2 w l henc).2.2.2

theorem step_wrOut_ok (hs : s.fsm = .wrOut) (hx : s.input.answersOk v) : step s = .next { s with
    inputs := s.inputs.tail, history := s.history ++ [.wOut s.cmdWord true], fsm := .wrCtrl } :=
  step_of_exec hx.1 (fetch_busy (by simp [hs])) ((outWriteStep _ s hs).1 v hx.2)

theorem step_wrOut_err (hs : s.fsm = .wrOut) (hx : s.input.answersErr) : step s = .next (State.ended { s with
    inputs := s.inputs.tail, history := s.history ++ [.wOut s.cmdWord false] } .transportError 0) :=
  step_of_exec hx.1 (fetch_busy (by simp [hs])) ((outWriteStep _ s hs).2 hx.2)

theorem step_wrCtrl_ok (hs : s.fsm = .wrCtrl) (hx : s.input.answersOk v) : step s = .next { s with
    inputs := s.inputs.tail, history := s.history ++ [.wCtrl (ctrlWord s.bitLen) true], pollCnt := 0, fsm := .poll } :=
  step_of_exec hx.1 (fetch_busy (by simp [hs])) ((ctrlWriteStep _ s hs).1 v hx.2)

theorem step_wrCtrl_err (hs : s.fsm = .wrCtrl) (hx : s.input.answersErr) : step s = .next (State.ended { s with
    inputs := s.inputs.tail, history := s.history ++ [.wCtrl (ctrlWord s.bitLen) false] } .transportError 0) :=
  step_of_exec hx.1 (fetch_busy (by simp [hs])) ((ctrlWriteStep _ s hs).2 hx.2)

theorem step_poll_done (hs : s.fsm = .poll) (hx : s.input.answersOk v) (hd : doneFlag (statusValue v) = true) :
    step s = .next { s with
      inputs := s.inputs.tail, history := s.history ++ [.rStatus (some (statusValue v))], fsm := .rdIn } :=
  step_of_exec hx.1 (fetch_busy (by simp [hs])) (((statusPollStep _ s hs).1 v hx.2).1 hd)

theorem step_poll_limit (hs : s.fsm = .poll) (hx : s.input.answersOk v) (hd : doneFlag (statusValue v) = false)
    (hl : s.pollCnt + 1 = s.cfg.pollLimit) : step s = .next (State.ended { s with
      inputs := s.inputs.tail, history := s.history ++ [.rStatus (some (statusValue v))] } .deviceTimeout 0) :=
  step_of_exec hx.1 (fetch_busy (by simp [hs])) (((statusPollStep _ s hs).1 v hx.2).2.1 hd hl)

theorem step_poll_again (hs : s.fsm = .poll) (hx : s.input.answersOk v) (hd : doneFlag (statusValue v) = false)
    (hl : s.pollCnt + 1 ≠ s.cfg.pollLimit) : step s = .next { s with
      inputs := s.inputs.tail, history := s.history ++ [.rStatus (some (statusValue v))], pollCnt := s.pollCnt + 1 } :=
  step_of_exec hx.1 (fetch_busy (by simp [hs])) (((statusPollStep _ s hs).1 v hx.2).2.2 hd hl)

theorem step_poll_err (hs : s.fsm = .poll) (hx : s.input.answersErr) : step s = .next (State.ended { s with
    inputs := s.inputs.tail, history := s.history ++ [.rStatus none] } .transportError 0) :=
  step_of_exec hx.1 (fetch_busy (by simp [hs])) ((statusPollStep _ s hs).2.1 hx.2)

theorem step_rdIn_ok (hs : s.fsm = .rdIn) (hx : s.input.answersOk v) : step s = .next { s with
    inputs := s.inputs.tail, history := s.history ++ [.rIn (some v)], respWord := v, fsm := .extract } :=
  step_of_exec hx.1 (fetch_busy (by simp [hs])) ((inboundReadStep _ s hs).1 v hx.2)

theorem step_rdIn_err (hs : s.fsm = .rdIn) (hx : s.input.answersErr) : step s = .next (State.ended { s with
    inputs := s.inputs.tail, history := s.history ++ [.rIn none] } .transportError 0) :=
  step_of_exec hx.1 (fetch_busy (by simp [hs])) ((inboundReadStep _ s hs).2 hx.2)

end AnsweredStep

/-! ## The stages of a transaction (R85) -/

/-- `s` after acceptance of `r` and BUILD of its word `w` and length `l`, with the inputs `xs` to come (R76, R78). -/
def State.opened (s : State) (r : Request) (w l : Nat) (xs : List EnvInput) : State :=
  { (s.latching r).building w l with
    inputs := xs, resValid := false, resStatus := .ok, resValue := 0, fsm := .wrOut }

/-- The same after the OUT write (R79). -/
def State.outWritten (s : State) (r : Request) (w l : Nat) (xs : List EnvInput) : State :=
  { s.opened r w l xs with history := s.history ++ [.wOut (BitVec.ofNat 40 w) true], fsm := .wrCtrl }

/-- The same after both writes and the STATUS reads `vs`, all with the done flag clear (R80, R81). -/
def State.polled (s : State) (r : Request) (w l : Nat) (xs : List EnvInput) (vs : List RegWord) : State :=
  { s.opened r w l xs with
    history := s.history ++ [.wOut (BitVec.ofNat 40 w) true, .wCtrl (ctrlWord (BitVec.ofNat 8 l)) true] ++ statusReads vs
    pollCnt := BitVec.ofNat 32 vs.length, fsm := .poll }

/-- The same after one more STATUS read `d` with the done flag set (R81). -/
def State.doneRead (s : State) (r : Request) (w l : Nat) (xs : List EnvInput) (vs : List RegWord) (d : RegWord) : State :=
  { s.polled r w l xs vs with history := (s.polled r w l xs vs).history ++ [.rStatus (some d)], fsm := .rdIn }

/-- The same after the IN read `v` (R82). -/
def State.inRead (s : State) (r : Request) (w l : Nat) (xs : List EnvInput) (vs : List RegWord) (d : RegWord)
    (v : XWord) : State :=
  { s.doneRead r w l xs vs d with
    history := (s.doneRead r w l xs vs d).history ++ [.rIn (some v)], respWord := v, fsm := .extract }

section Stages

variable {s : State} {r : Request} {w l : Nat} {x x₀ x₁ x₂ x₃ : EnvInput} {xs rest : List EnvInput}
  {us vs : List RegWord} {v a₂ a₃ : XWord}

theorem step_accepted (hr₁ : (s.accept r).tick.input.rst = false) (henc : refEncode s.cfg r = some (w, l)) :
    step (s.accept r).tick = .next (s.opened r w l s.inputs.tail.tail) :=
  step_build_some rfl hr₁ henc

/-- The first two steps of a valid request, on the samples as the states see them. -/
theorem run_to_opened (hi : s.fsm = .idle) (hr : s.input.rst = false) (hq : s.input.request = some r)
    (hr₁ : (s.accept r).tick.input.rst = false) (henc : refEncode s.cfg r = some (w, l)) :
    Sys2Proof.core.run 2 s = .next (s.opened r w l s.inputs.tail.tail) := by
  rw [run_succ (step_idle_offered hi hr hq), run_succ (step_accepted hr₁ henc), run_zero]

theorem step_opened (h₂ : (s.opened r w l xs).input.answersOk a₂) :
    step (s.opened r w l xs) = .next (s.outWritten r w l xs.tail) :=
  step_wrOut_ok rfl h₂

theorem step_outWritten (h₃ : (s.outWritten r w l xs).input.answersOk a₃) :
    step (s.outWritten r w l xs) = .next (s.polled r w l xs.tail []) := by
  rw [step_wrCtrl_ok rfl h₃]
  simp [State.outWritten, State.polled, State.opened, State.building, statusReads]

theorem run_to_opened_of_inputs (hi : s.fsm = .idle) (hin : s.inputs = x₀ :: x₁ :: xs) (hr₀ : x₀.rst = false)
    (hq : x₀.request = some r) (hr₁ : x₁.rst = false) (henc : refEncode s.cfg r = some (w, l)) :
    Sys2Proof.core.run 2 s = .next (s.opened r w l xs) := by
  have h₀ := input_of_inputs hin
  have h₁ : (s.accept r).tick.input = x₁ := input_of_inputs (xs := xs) (by simp [hin])
  simpa [hin] using run_to_opened hi (by rw [h₀, hr₀]) (by rw [h₀, hq]) (by rw [h₁, hr₁]) henc

/-- The first four steps, if both writes are answered Ok. -/
theorem run_to_polled (hi : s.fsm = .idle) (hin : s.inputs = x₀ :: x₁ :: x₂ :: x₃ :: xs) (hr₀ : x₀.rst = false)
    (hq : x₀.request = some r) (hr₁ : x₁.rst = false) (h₂ : x₂.answersOk a₂) (h₃ : x₃.answersOk a₃)
    (henc : refEncode s.cfg r = some (w, l)) : Sys2Proof.core.run 4 s = .next (s.polled r w l xs []) := by
  have hout := step_opened (s := s) (r := r) (w := w) (l := l) (xs := x₂ :: x₃ :: xs) h₂
  have hctrl := step_outWritten (s := s) (r := r) (w := w) (l := l) (xs := x₃ :: xs) h₃
  rw [run_add (m := 2) (run_to_opened_of_inputs hi hin hr₀ hq hr₁ henc) 2, run_succ hout, List.tail_cons, run_succ hctrl,
    run_zero, List.tail_cons]

theorem ofNat_eq_pollLimit_iff {p : Params} {n : Nat} (h : n ≤ p.pollLimit.toNat) :
    BitVec.ofNat 32 n = p.pollLimit ↔ n = p.pollLimit.toNat := by
  have hlim : p.pollLimit.toNat < 2 ^ 32 := BitVec.isLt _
  rw [← BitVec.toNat_inj, BitVec.toNat_ofNat, Nat.mod_eq_of_lt (by omega)]

/-- The counter after `n` polls stands one below POLL_LIMIT exactly when `n + 1` polls are all. -/
theorem ofNat_succ_eq_pollLimit_iff {p : Params} {n : Nat} (h : n < p.pollLimit.toNat) :
    BitVec.ofNat 32 n + 1 = p.pollLimit ↔ n + 1 = p.pollLimit.toNat := by
  rw [← ofNat_eq_pollLimit_iff h]
  exact iff_of_eq (congrArg (· = p.pollLimit) (BitVec.ofNat_add n 1).symm)

/-- A STATUS read with done clear before the last allowed one. -/
theorem step_polled_again (hx : x.answersOk v) (hd : doneFlag (statusValue v) = false)
    (hl : vs.length + 1 < s.cfg.pollLimit.toNat) :
    step (s.polled r w l (x :: xs) vs) = .next (s.polled r w l xs (vs ++ [statusValue v])) := by
  have hne : BitVec.ofNat 32 vs.length + 1 ≠ s.cfg.pollLimit := by
    rw [Ne, ofNat_succ_eq_pollLimit_iff (by omega)]; omega
  rw [step_poll_again (s := s.polled r w l (x :: xs) vs) rfl hx hd hne]
  simp [State.polled, State.opened, statusReads, State.building, BitVec.ofNat_add]

theorem step_polled_done (hx : x.answersOk v) (hd : doneFlag (statusValue v) = true) :
    step (s.polled r w l (x :: xs) vs) = .next (s.doneRead r w l xs vs (statusValue v)) :=
  step_poll_done (s := s.polled r w l (x :: xs) vs) rfl hx hd

theorem step_doneRead {d : RegWord} (hx : x.answersOk v) :
    step (s.doneRead r w l (x :: xs) vs d) = .next (s.inRead r w l xs vs d v) :=
  step_rdIn_ok (s := s.doneRead r w l (x :: xs) vs d) rfl hx

/-- A run of STATUS reads with done clear that ends below POLL_LIMIT. -/
theorem run_polls (h : pollsClear xs us) (hl : vs.length + us.length < s.cfg.pollLimit.toNat) :
    Sys2Proof.core.run us.length (s.polled r w l (xs ++ rest) vs) = .next (s.polled r w l rest (vs ++ us)) := by
  obtain ⟨hall, hclear⟩ := h
  induction hall generalizing vs with
  | nil => simp
  | @cons x v xs us hx _ ih =>
    obtain ⟨a, hx, rfl⟩ := hx
    rw [List.length_cons] at hl
    have hstep := step_polled_again (s := s) (r := r) (w := w) (l := l) (xs := xs ++ rest) hx
      (hclear _ List.mem_cons_self) (vs := vs) (by omega)
    rw [List.length_cons, List.cons_append, run_succ hstep,
      ih (by simp only [List.length_append, List.length_singleton]; omega) fun u hu => hclear u (List.mem_cons_of_mem _ hu),
      List.append_assoc, List.singleton_append]

theorem pollsClear_concat {d : RegWord} (h : pollsClear xs (us ++ [d])) :
    ∃ ys x a, xs = ys ++ [x] ∧ pollsClear ys us ∧ x.answersOk a ∧ statusValue a = d ∧ doneFlag d = false := by
  obtain ⟨hall, hclear⟩ := h
  have htake := List.forall₂_take_append _ _ _ hall
  have hdrop := List.forall₂_drop_append _ _ _ hall
  obtain ⟨x, t, ⟨a, hx, hd⟩, ht, hxt⟩ := List.forall₂_cons_right_iff.1 hdrop
  rw [List.forall₂_nil_right_iff.1 ht] at hxt
  exact ⟨xs.take us.length, x, a, by rw [← hxt, List.take_append_drop], ⟨htake, fun u hu => hclear u (by simp [hu])⟩,
    hx, hd, hclear d (by simp)⟩

end Stages

end Sys2Proof.Machine

namespace Sys2Proof

open Machine

/-! ## Whole transactions (R85): the stages up to the step that ends them -/

/-- Settles O39: BUILD refuses the request in the step after its acceptance. -/
theorem invalidArgumentTransaction : Obligations.InvalidArgumentTransaction := by
  intro s r x₀ x₁ rest hi hin hr₀ hq hr₁ henc
  have h₀ := step_idle_offered hi (by rw [input_of_inputs hin, hr₀]) (by rw [input_of_inputs hin, hq])
  have hin₁ : (s.accept r).tick.inputs = x₁ :: rest := by simp [hin]
  have h₁ := (buildFollowsEncodeTable (s.accept r).tick rfl (by rw [input_of_inputs hin₁, hr₁])).1 henc
  rw [run_succ h₀, run_succ h₁, run_zero, hin₁]
  rfl

/-- Settles O40: the third step is the failed OUT write. -/
theorem transportErrorAtOut : Obligations.TransportErrorAtOut := by
  intro s r w l x₀ x₁ x₂ rest hi hin hr₀ hq hr₁ h₂ henc
  have hend := step_wrOut_err (s := s.opened r w l (x₂ :: rest)) rfl h₂
  rw [run_add (m := 2) (run_to_opened_of_inputs hi hin hr₀ hq hr₁ henc) 1, run_succ hend, run_zero]
  simp [State.ended, State.opened, State.building, State.latching]

/-- Settles O41: the fourth step is the failed CTRL write. -/
theorem transportErrorAtCtrl : Obligations.TransportErrorAtCtrl := by
  intro s r w l x₀ x₁ x₂ x₃ rest a₂ hi hin hr₀ hq hr₁ h₂ h₃ henc
  have hend := step_wrCtrl_err (s := s.outWritten r w l (x₃ :: rest)) rfl h₃
  rw [run_add (m := 2) (run_to_opened_of_inputs hi hin hr₀ hq hr₁ henc) 2, run_succ (step_opened (xs := x₂ :: x₃ :: rest) h₂),
    List.tail_cons, run_succ hend, run_zero]
  simp [State.ended, State.outWritten, State.opened, State.building]

/-- Settles O42: the polls, then the failed STATUS read. -/
theorem transportErrorAtPoll : Obligations.TransportErrorAtPoll := by
  intro s r w l x₀ x₁ x₂ x₃ x₄ xs rest vs a₂ a₃ hi hin hr₀ hq hr₁ h₂ h₃ hp hl h₄ henc
  have hpolls := run_polls (s := s) (r := r) (w := w) (l := l) (rest := x₄ :: rest) (vs := []) hp (by simpa using hl)
  have hend := step_poll_err (s := s.polled r w l (x₄ :: rest) vs) rfl h₄
  rw [run_add (run_to_polled hi hin hr₀ hq hr₁ h₂ h₃ henc), run_add hpolls, List.nil_append, run_succ hend, run_zero]
  simp [State.ended, State.polled, State.opened]

/-- Settles O38: the polls but the last, then the last one, on which the limit is met. -/
theorem timeoutTransaction : Obligations.TimeoutTransaction := by
  intro s r w l x₀ x₁ x₂ x₃ xs rest vs a₂ a₃ hi hin hr₀ hq hr₁ h₂ h₃ hp hl hwf henc
  have hpos := pollLimit_pos hwf
  obtain rfl | ⟨us, d, rfl⟩ := List.eq_nil_or_concat' vs
  · rw [List.length_nil] at hl; omega
  obtain ⟨ys, x, a, rfl, hys, hx, rfl, hd⟩ := pollsClear_concat hp
  rw [List.length_append, List.length_singleton] at hl ⊢
  have hpolls := run_polls (s := s) (r := r) (w := w) (l := l) (rest := x :: rest) (vs := []) hys
    (by rw [List.length_nil]; omega)
  have hlim : BitVec.ofNat 32 us.length + 1 = s.cfg.pollLimit := (ofNat_succ_eq_pollLimit_iff (by omega)).2 hl
  have hend := step_poll_limit (s := s.polled r w l (x :: rest) us) rfl hx hd hlim
  rw [List.append_assoc, List.singleton_append] at hin
  rw [run_add (run_to_polled hi hin hr₀ hq hr₁ h₂ h₃ henc), run_add hpolls, List.nil_append, run_succ hend, run_zero, ← hlim]
  simp [State.ended, State.polled, State.opened, statusReads]

/-- Settles O43: the polls, the one with done set, then the failed IN read. -/
theorem transportErrorAtIn : Obligations.TransportErrorAtIn := by
  intro s r w l x₀ x₁ x₂ x₃ x₄ x₅ xs rest vs a₂ a₃ d hi hin hr₀ hq hr₁ h₂ h₃ hp hl h₄ hd h₅ henc
  have hpolls := run_polls (s := s) (r := r) (w := w) (l := l) (rest := x₄ :: x₅ :: rest) (vs := []) hp (by simpa using hl)
  have hend := step_rdIn_err (s := s.doneRead r w l (x₅ :: rest) vs (statusValue d)) rfl h₅
  rw [show 6 + vs.length = 4 + (vs.length + 2) by omega, run_add (run_to_polled hi hin hr₀ hq hr₁ h₂ h₃ henc),
    run_add hpolls, List.nil_append, run_succ (step_polled_done h₄ hd), run_succ hend, run_zero]
  simp [State.ended, State.doneRead, State.polled, State.opened]

/-- Settles O37: the polls, the one with done set, the IN read, then EXTRACT of R69's answer. -/
theorem okTransaction : Obligations.OkTransaction := by
  intro s r w l x₀ x₁ x₂ x₃ x₄ x₅ x₆ xs rest vs a₂ a₃ d v hi hin hr₀ hq hr₁ h₂ h₃ hp hl h₄ hd h₅ hr₆ henc
  have hpolls := run_polls (s := s) (r := r) (w := w) (l := l) (rest := x₄ :: x₅ :: x₆ :: rest) (vs := []) hp
    (by simpa using hl)
  have hend := (extractFollowsTable (s.inRead r w l (x₆ :: rest) vs (statusValue d) v) rfl hr₆).1
  rw [show 7 + vs.length = 4 + (vs.length + 3) by omega, run_add (run_to_polled hi hin hr₀ hq hr₁ h₂ h₃ henc),
    run_add hpolls, List.nil_append, run_succ (step_polled_done h₄ hd), run_succ (step_doneRead h₅), run_succ hend, run_zero]
  simp [State.ended, State.inRead, State.doneRead, State.polled, State.opened, State.building, State.latching]

end Sys2Proof

namespace Sys2Proof.Machine

/-! ## The bound on a transaction's length (R86) -/

/-- Some run of 1 to `n` steps ends in IDLE with a result. -/
def State.returnsWithin (s : State) (n : Nat) : Prop :=
  ∃ (m : Nat) (t : State), 1 ≤ m ∧ m ≤ n ∧ Sys2Proof.core.run m s = .next t ∧ t.fsm = .idle ∧ t.resValid = true

theorem returnsWithin_of_ends {s t : State} (h : step s = .next t) (hi : t.fsm = .idle) (hv : t.resValid = true) (n : Nat) :
    s.returnsWithin (n + 1) :=
  ⟨1, t, le_rfl, by omega, by rw [run_succ h, run_zero], hi, hv⟩

theorem returnsWithin_of_step {s t : State} {n : Nat} (h : step s = .next t) (ht : t.returnsWithin n) :
    s.returnsWithin (n + 1) := by
  obtain ⟨m, u, hm, hmn, hrun, hu⟩ := ht
  exact ⟨m + 1, u, by omega, by omega, by rw [run_succ h, hrun], hu⟩

/-- The answered steps that a busy block has left at most, the last of them the return to IDLE (R86). -/
def State.stepsLeft (s : State) : Nat :=
  match s.fsm with
  | .idle => 0
  | .build => s.cfg.pollLimit.toNat + 5
  | .wrOut => s.cfg.pollLimit.toNat + 4
  | .wrCtrl => s.cfg.pollLimit.toNat + 3
  | .poll => s.cfg.pollLimit.toNat - s.pollCnt.toNat + 2
  | .rdIn => 2
  | .extract => 1
  | .unused7 => 0

/-- In POLL the counter is below POLL_LIMIT (R24). WR_CTRL clears it, so this needs nothing of what came before. -/
def State.pollsBelow (s : State) : Prop := s.fsm = .poll → s.pollCnt.toNat < s.cfg.pollLimit.toNat

theorem stepsLeft_pos {s : State} (hi : s.fsm ≠ .idle) (h7 : s.fsm ≠ .unused7) : 0 < s.stepsLeft := by
  cases hs : s.fsm with
  | idle => exact absurd hs hi
  | unused7 => exact absurd hs h7
  | _ => simp [State.stepsLeft, hs]

/-- A busy step on an answered access ends the transaction, or leaves fewer steps and the counter below POLL_LIMIT. -/
theorem served_ends_or_progresses {s : State} (i : Instr) (hi : s.fsm ≠ .idle) (h7 : s.fsm ≠ .unused7) (hcfg : s.cfg.wf)
    (hp : s.pollsBelow) (ha : s.fsm.accessing = true → s.input.answer ≠ none) :
    ((s.served i).fsm = .idle ∧ (s.served i).resValid = true) ∨
    ((s.served i).fsm ≠ .idle ∧ (s.served i).pollsBelow ∧ (s.served i).stepsLeft < s.stepsLeft) := by
  rcases served_busy_cases s i hi h7 with
    ⟨hs, ⟨f, -, ht⟩ | ⟨-, ht⟩⟩ | ⟨-, ht⟩ | ⟨hacc, hnone, -⟩ | ⟨e, -, -, -, ht⟩ | ⟨v, -, hok⟩
  · exact .inr (by simp [ht, hs, State.pollsBelow, State.stepsLeft])
  · exact .inl (ht ▸ ⟨rfl, rfl⟩)
  · exact .inl (ht ▸ ⟨rfl, rfl⟩)
  · exact absurd hnone (ha hacc)
  · exact .inl (ht ▸ ⟨rfl, rfl⟩)
  · rcases hok with ⟨hs, ht⟩ | ⟨hs, ht⟩ | ⟨hs, -, ht⟩ | ⟨hs, -, -, ht⟩ | ⟨hs, -, hl, ht⟩ | ⟨hs, ht⟩
    · exact .inr (by simp [ht, hs, State.pollsBelow, State.stepsLeft])
    · exact .inr (by simp [ht, hs, State.pollsBelow, State.stepsLeft, pollLimit_pos hcfg])
    · have hbelow := hp hs
      refine .inr ⟨by simp [ht], by simp [ht, State.pollsBelow], ?_⟩
      simp only [ht, hs, State.stepsLeft]
      omega
    · exact .inl (ht ▸ ⟨rfl, rfl⟩)
    · have hbelow := hp hs
      have hn := pollCnt_succ_toNat hbelow
      have hne : (s.pollCnt + 1).toNat ≠ s.cfg.pollLimit.toNat := fun e => hl (BitVec.eq_of_toNat_eq e)
      refine .inr ⟨by simp [ht, hi], fun _ => by simp only [ht]; omega, ?_⟩
      simp only [ht, hs, State.stepsLeft]
      omega
    · exact .inr (by simp [ht, hs, State.pollsBelow, State.stepsLeft])

/-- A busy block returns within the steps it has left. -/
theorem busy_returns {n : Nat} {s : State} (hi : s.fsm ≠ .idle) (h7 : s.fsm ≠ .unused7) (hcfg : s.cfg.wf)
    (hp : s.pollsBelow) (hn : s.stepsLeft ≤ n) (hu : untilIdle State.answered n s) : s.returnsWithin n := by
  induction n generalizing s with
  | zero => have := stepsLeft_pos hi h7; omega
  | succ n ih =>
    obtain ⟨hr, ha⟩ := hu.1
    have hstep := step_busy hi h7 hr
    rcases served_ends_or_progresses (decodeRequest s.latched) hi h7 hcfg hp ha with ⟨hend, hv⟩ | ⟨hbusy, hp', hlt⟩
    · exact returnsWithin_of_ends hstep hend hv n
    · have hleft : (s.served (decodeRequest s.latched)).tick.stepsLeft < s.stepsLeft := hlt
      exact returnsWithin_of_step hstep (ih hbusy (served_fsm_ne_unused7 _ h7) (by rw [tick_cfg, served_cfg]; exact hcfg)
        hp' (by omega) (untilIdle_tail hu hstep hbusy))

end Sys2Proof.Machine

namespace Sys2Proof

open Machine

/-- Settles O44: acceptance leaves 5 + POLL_LIMIT steps, and each answered one uses one of them. -/
theorem everyRequestCompletesInBound : Obligations.EveryRequestCompletesInBound := by
  intro s r hi hcfg hq hu
  rw [show 6 + s.cfg.pollLimit.toNat = s.cfg.pollLimit.toNat + 5 + 1 by omega] at hu ⊢
  have hstep := step_idle_offered hi hu.1.1 hq
  exact returnsWithin_of_step hstep (busy_returns (by simp) (by simp) hcfg (fun h => by simp at h) (by simp [State.stepsLeft])
    (untilIdle_tail hu hstep (by simp)))

end Sys2Proof

/-! Bits received and the number they spell, the STATUS reads of the present transaction, and what a step does to the SPI
master's side; from them the statements about the wire and the accesses (R37, R41, R48 to R51, R53, R81). -/

namespace Sys2Proof.Machine

/-! ## Bits and the number they spell (R49, R51) -/

theorem foldl_bits (n : Nat) (bits : List Bool) :
    bits.foldl (fun n b => 2 * n + b.toNat) n = n * 2 ^ bits.length + bitsValue bits := by
  induction bits generalizing n with
  | nil => simp [bitsValue]
  | cons b bits ih =>
    simp only [bitsValue, List.foldl_cons, List.length_cons]
    rw [ih, ih (2 * 0 + b.toNat)]
    ring

theorem bitsValue_append (xs ys : List Bool) : bitsValue (xs ++ ys) = bitsValue xs * 2 ^ ys.length + bitsValue ys := by
  rw [bitsValue, List.foldl_append, foldl_bits]
  rfl

theorem bitsValue_lt (bits : List Bool) : bitsValue bits < 2 ^ bits.length := by
  induction bits with
  | nil => simp [bitsValue]
  | cons b bits ih =>
    have hb : bitsValue [b] ≤ 1 := by cases b <;> decide
    have happ := bitsValue_append [b] bits
    have hmul := Nat.mul_le_mul_right (2 ^ bits.length) hb
    rw [List.singleton_append] at happ
    rw [happ, List.length_cons, Nat.pow_succ]
    omega

/-- The bits after the first `m` spell the low part of the number. -/
theorem bitsValue_drop (bits : List Bool) (m : Nat) :
    bitsValue (bits.drop m) = bitsValue bits % 2 ^ (bits.length - m) := by
  have happ := bitsValue_append (bits.take m) (bits.drop m)
  have hlt := bitsValue_lt (bits.drop m)
  rw [List.take_append_drop, List.length_drop] at happ
  rw [List.length_drop] at hlt
  rw [happ, Nat.mul_add_mod_self_right, Nat.mod_eq_of_lt hlt]

/-- In a value that holds `l` received bits, those after the first `m` are the low `l - m` bits (R51). -/
theorem inboundContract_drop {l : Nat} {bits : List Bool} {v : XWord} (h : inboundContract l bits v) (m : Nat) :
    bitsValue (bits.drop m) = v.toNat % 2 ^ (l - m) := by
  obtain ⟨hlen, hval⟩ := h
  rw [bitsValue_drop, hlen, ← hval, Nat.mod_mod_of_dvd _ (Nat.pow_dvd_pow 2 (Nat.sub_le l m))]

/-- What a built operation other than TRANSFER keeps is the number its last received bits spell (R48, R69). -/
theorem keep_eq_receivedValue {i : Instr} {p : Params} {f : CmdFrame} {bits : List Bool} {v : XWord}
    (hf : i.frame p = some f) (hin : inboundContract f.len.toNat bits v) (hD : (encodeRequest i).op ≠ 0xD) :
    (i.keep v).toNat = receivedValue (encodeRequest i).op bits := by
  obtain ⟨k, hk⟩ := exists_packing_of_frame hf hD
  obtain ⟨g, hg, -, hlen⟩ := frame_of_packing (exists_frame_iff_wf.1 ⟨f, hf⟩) hk
  cases hf.symm.trans hg
  rw [hlen] at hin
  cases i with
  | readId a => cases hk; exact (keepLow24_toNat v).trans (inboundContract_drop hin 8).symm
  | readStatus a => cases hk; exact (keepLow8_toNat v).trans (inboundContract_drop hin 8).symm
  | readSectorLock a => cases hk; exact (keepLow8_toNat v).trans (inboundContract_drop hin 32).symm
  | readByte a => cases hk; exact (keepLow8_toNat v).trans (inboundContract_drop hin 32).symm
  | readNonvolatileConfig a => cases hk; exact (keepLow16_toNat v).trans (inboundContract_drop hin 8).symm
  | transfer a => exact absurd rfl hD
  | _ => rfl

theorem keep_decodeRequest_of_transfer {r : Request} (h : r.op = 0xD) (v : XWord) : (decodeRequest r).keep v = v := by
  simp [decodeRequest, h, Instr.keep, keepAll]

/-- In a built state the command registers are the frame of the latched request's operation (R22, R23, R68). -/
theorem inv_frame {s : State} (h : Inv s) (hs : s.fsm.built = true) :
    ∃ f, (decodeRequest s.latched).frame s.cfg = some f ∧ f.len = s.bitLen := by
  have henc := h.encoded hs
  rw [refEncode_eq_frame_decodeRequest] at henc
  obtain ⟨f, hf, hwl⟩ := Option.map_eq_some_iff.1 henc
  exact ⟨f, hf, BitVec.eq_of_toNat_eq (Prod.mk.inj hwl).2⟩

/-! ## The STATUS reads of the present transaction (R53, R81) -/

/-- After `H` stood at `hist`, the present transaction made its two writes, the STATUS reads `vs` and the accesses `tl`. -/
structure State.ReadsAre (s : State) (hist : List Event) (vs : List RegWord) (tl : List Event) : Prop where
  /-- nothing else was accessed since -/
  history : s.history = hist ++ s.started ++ statusReads vs ++ tl
  /-- in POLL every read was counted and showed done clear -/
  polling : s.fsm = .poll → vs.length = s.pollCnt.toNat ∧ ∀ v ∈ vs, doneFlag v = false
  /-- after it the counted reads did, and one more showed it set -/
  polled : s.fsm ≠ .poll → ∃ us d, vs = us ++ [d] ∧ us.length = s.pollCnt.toNat ∧ (∀ u ∈ us, doneFlag u = false) ∧
    doneFlag d = true
  /-- in EXTRACT the IN read followed -/
  extracting : s.fsm = .extract → tl = [.rIn (some s.respWord)]
  /-- before it nothing did -/
  reading : s.fsm ≠ .extract → tl = []

/-- POLL, RD_IN and EXTRACT: a transfer was started and its result is not yet shown. -/
def Fsm.transferring (f : Fsm) : Prop := f = .poll ∨ f = .rdIn ∨ f = .extract

theorem inv_readsAre {s : State} (h : Inv s) (hs : s.fsm.transferring) : ∃ hist vs tl, s.ReadsAre hist vs tl := by
  have hacc := h.accesses
  rcases hs with hs | hs | hs
  · simp only [State.accessesInOrder, hs] at hacc
    obtain ⟨hist, vs, hh, hlen, hclear⟩ := hacc
    exact ⟨hist, vs, [], by simp [hh], fun _ => ⟨hlen, hclear⟩, fun hne => absurd hs hne, fun he => by simp [hs] at he,
      fun _ => rfl⟩
  · simp only [State.accessesInOrder, hs] at hacc
    obtain ⟨hist, vs, d, hh, hlen, hclear, hd⟩ := hacc
    exact ⟨hist, vs ++ [d], [], by simp [hh, statusReads], fun he => by simp [hs] at he,
      fun _ => ⟨vs, d, rfl, hlen, hclear, hd⟩, fun he => by simp [hs] at he, fun _ => rfl⟩
  · simp only [State.accessesInOrder, hs] at hacc
    obtain ⟨hist, vs, d, hh, hlen, hclear, hd⟩ := hacc
    exact ⟨hist, vs ++ [d], [.rIn (some s.respWord)], by simp [hh, statusReads], fun he => by simp [hs] at he,
      fun _ => ⟨vs, d, rfl, hlen, hclear, hd⟩, fun _ => rfl, fun hne => absurd hs hne⟩

section ReadsAre

variable {s : State} {hist tl : List Event} {vs : List RegWord}

/-- The IN read tells nothing of the wire, so it stands as the two writes and the STATUS reads left it (R41). -/
theorem wireOf_readsAre (h : s.ReadsAre hist vs tl) : wireOf s.history =
    ⟨some s.cmdWord, some (ctrlWord s.bitLen), (wireOf hist).started ++ [⟨s.bitLen.toNat, some s.cmdWord⟩], vs.length,
      decide (s.fsm ≠ .poll)⟩ := by
  have htl : ∀ x : Wire, tl.foldl Wire.after x = x := by
    intro x
    by_cases he : s.fsm = .extract
    · simp [h.extracting he]
    · simp [h.reading he]
  rw [h.history, wireOf_append, htl, wireOf_append, wireOf_started, after_statusReads]
  by_cases hp : s.fsm = .poll
  · obtain ⟨-, hclear⟩ := h.polling hp
    by_cases hvs : vs = []
    · simp [hvs, hp]
    · simp [hvs, hp, hclear _ (List.getLast_mem hvs)]
  · obtain ⟨us, d, rfl, -, -, hd⟩ := h.polled hp
    simp [hp, hd]

/-- Done clear some number of times, then set at most once, is the shape R53 admits. -/
theorem doneContract_append {us ds : List RegWord} (hus : ∀ u ∈ us, doneFlag u = false) (hds : ∀ d ∈ ds, doneFlag d = true) :
    doneContract (us ++ ds) = true := by
  rw [doneContract, List.dropWhile_append_of_pos (by simpa using hus), List.all_eq_true]
  exact fun d hd => hds d ((List.dropWhile_suffix _).subset hd)

theorem readsAre_doneContract (h : s.ReadsAre hist vs tl) : doneContract vs = true := by
  by_cases hp : s.fsm = .poll
  · simpa using doneContract_append (h.polling hp).2 (ds := []) (by simp)
  · obtain ⟨us, d, rfl, -, hclear, hd⟩ := h.polled hp
    exact doneContract_append hclear (by simpa using hd)

theorem readsAre_length_le (h : s.ReadsAre hist vs tl) (hb : s.pollCnt.toNat < s.cfg.pollLimit.toNat) :
    vs.length ≤ s.cfg.pollLimit.toNat := by
  by_cases hp : s.fsm = .poll
  · rw [(h.polling hp).1]; exact hb.le
  · obtain ⟨us, d, rfl, hlen, -⟩ := h.polled hp
    rw [List.length_append, hlen]; exact hb

end ReadsAre

/-! ## What a step does to OUT and to the transfers (R37, R41) -/

section WireStep

variable {s t : State}

/-- A step in WR_CTRL goes on to POLL exactly if it logs an acknowledged write. -/
theorem step_wrCtrl_cases (hs : s.fsm = .wrCtrl) (h : step s = .next t) :
    (t.fsm = .poll ∧ t.history = s.history ++ [.wCtrl (ctrlWord s.bitLen) true]) ∨
    (t.fsm ≠ .poll ∧ (t.history = s.history ∨ t.history = s.history ++ [.wCtrl (ctrlWord s.bitLen) false])) := by
  obtain ⟨-, ⟨-, rfl⟩ | ⟨-, hi, -, -⟩ | ⟨r, -, hi, -, -⟩ | ⟨-, -, rfl⟩⟩ := step_next_cases h
  · exact .inr (by simp)
  · simp [hs] at hi
  · simp [hs] at hi
  · have hserved : s.served (decodeRequest s.latched) = s.wrCtrlStep := by simp [State.served, hs]
    rcases wrCtrlStep_cases s with ⟨-, e⟩ | ⟨-, e⟩ | ⟨v, -, e⟩
    · exact .inr (by simp [hserved, e, hs])
    · exact .inr (by simp [hserved, e])
    · exact .inl (by simp [hserved, e])

/-- A step in WR_OUT goes on to WR_CTRL exactly if it logs an acknowledged write; it logs a failed one only with an error. -/
theorem step_wrOut_cases (hs : s.fsm = .wrOut) (h : step s = .next t) :
    (t.fsm = .wrCtrl ∧ t.history = s.history ++ [.wOut s.cmdWord true]) ∨
    (t.fsm ≠ .wrCtrl ∧ (t.history = s.history ∨
      (t.resStatus = .transportError ∧ t.history = s.history ++ [.wOut s.cmdWord false]))) := by
  obtain ⟨-, ⟨-, rfl⟩ | ⟨-, hi, -, -⟩ | ⟨r, -, hi, -, -⟩ | ⟨-, -, rfl⟩⟩ := step_next_cases h
  · exact .inr (by simp)
  · simp [hs] at hi
  · simp [hs] at hi
  · have hserved : s.served (decodeRequest s.latched) = s.wrOutStep := by simp [State.served, hs]
    rcases wrOutStep_cases s with ⟨-, e⟩ | ⟨-, e⟩ | ⟨v, -, e⟩
    · exact .inr (by simp [hserved, e, hs])
    · exact .inr (by simp [hserved, e])
    · exact .inl (by simp [hserved, e])

/-- In the other states a step changes neither OUT nor the transfers: it makes no access, or a read. -/
theorem step_wire_of_no_write (ho : s.fsm ≠ .wrOut) (hc : s.fsm ≠ .wrCtrl) (h : step s = .next t) :
    (wireOf t.history).started = (wireOf s.history).started ∧ (wireOf t.history).out = (wireOf s.history).out := by
  rcases step_history_cases h with hsame | ⟨e, he, hlog⟩
  · rw [hsame]; exact ⟨rfl, rfl⟩
  · rw [he, wireOf_append]
    cases e with
    | wOut v b => exact absurd hlog.1 ho
    | wCtrl v b => exact absurd hlog.1 hc
    | rStatus v => cases v <;> exact ⟨rfl, rfl⟩
    | rIn v => simp

end WireStep

end Sys2Proof.Machine

namespace Sys2Proof

open Machine

/-- Settles O54: `sentBits` maps the positions `0 … l - 1`, and reads bit `l - 1 - k < l` at each. -/
theorem wireCarriesLowBitsInOrder : Obligations.WireCarriesLowBitsInOrder := by
  refine fun l w => ⟨by simp [sentBits], fun k hk => by simp [sentBits, hk], fun w' h => ?_⟩
  refine List.map_congr_left fun k hk => h _ ?_
  have := List.mem_range.1 hk
  omega

/-- Settles O55: what an operation keeps of IN is the low part of the number that the bits spell. -/
theorem readResultIsLastBitsReceived : Obligations.ReadResultIsLastBitsReceived := by
  refine ⟨fun a s bits hs => ⟨fun h => ?_, fun h => ?_, fun h => ?_, fun h => ?_, fun h => ?_⟩,
    fun s bits hInv hs hr hin => ?_⟩
  · exact ⟨_, exec_extracts hs rfl, (keepLow24_toNat _).trans (inboundContract_drop h 8).symm⟩
  · exact ⟨_, exec_extracts hs rfl, (keepLow8_toNat _).trans (inboundContract_drop h 8).symm⟩
  · exact ⟨_, exec_extracts hs rfl, (keepLow16_toNat _).trans (inboundContract_drop h 8).symm⟩
  · exact ⟨_, exec_extracts hs rfl, exec_extracts hs rfl, (keepLow8_toNat _).trans (inboundContract_drop h 32).symm⟩
  · exact ⟨_, exec_extracts hs rfl, h.2⟩
  · obtain ⟨f, hf, hlen⟩ := inv_frame hInv (by rw [hs]; rfl)
    have hop : (encodeRequest (decodeRequest s.latched)).op = s.reqOp := by rw [encodeRequest_decodeRequest]; rfl
    refine ⟨(decodeRequest s.latched).keep s.respWord, ?_, fun hD => ?_, fun hD => ?_⟩
    · rw [step_extract hs hr, extractStep_eq_ended]; rfl
    · rw [keep_eq_receivedValue hf (hlen ▸ hin) (hop ▸ hD), hop]
    · rw [keep_decodeRequest_of_transfer (r := s.latched) hD, hin.2]

/-- Settles O56: the wire as the present transaction's accesses left it. -/
theorem transferSendsTheCommandWord : Obligations.TransferSendsTheCommandWord := by
  intro s hInv hs
  obtain ⟨hist, vs, tl, hreads⟩ := inv_readsAre hInv hs
  rw [wireOf_readsAre hreads]
  exact ⟨rfl, rfl, _, List.getLast?_concat, rfl, rfl, rfl⟩

/-- Settles O57: the present transaction's reads, and the wire as they left it. -/
theorem statusReadsMeetDoneContract : Obligations.StatusReadsMeetDoneContract := by
  intro s hInv hs
  obtain ⟨hist, vs, tl, hreads⟩ := inv_readsAre hInv hs
  refine ⟨hist, vs, tl, hreads.history, readsAre_doneContract hreads, fun hp => (hreads.polling hp).2, fun hp => ?_,
    hreads.extracting, hreads.reading, readsAre_length_le hreads hInv.pollBelow, ?_, ?_⟩
  · obtain ⟨us, d, hvs, -, hclear, hd⟩ := hreads.polled hp
    exact ⟨us, d, hvs, hclear, hd⟩
  · rw [wireOf_readsAre hreads]
  · rw [wireOf_readsAre hreads]

/-- Settles O58: by the state, WR_CTRL, WR_OUT or another, and the event its step logs. -/
theorem transfersStartOnlyAtCtrlWrite : Obligations.TransfersStartOnlyAtCtrlWrite := by
  intro s t h
  by_cases hc : s.fsm = .wrCtrl
  · rcases step_wrCtrl_cases hc h with ⟨ht, hh⟩ | ⟨ht, hh | hh⟩
    · simp [hh, wireOf_append, hc, ht]
    · simp [hh, hc, ht]
    · simp [hh, wireOf_append, hc, ht]
  by_cases ho : s.fsm = .wrOut
  · rcases step_wrOut_cases ho h with ⟨ht, hh⟩ | ⟨ht, hh | ⟨hst, hh⟩⟩
    · simp [hh, wireOf_append, ho, ht]
    · simp [hh, ho, ht]
    · simp [hh, wireOf_append, ho, ht, hst]
  · obtain ⟨hstarted, hout⟩ := step_wire_of_no_write ho hc h
    exact ⟨.inl hstarted, fun hs => absurd hs hc, .inl hout, fun hs => absurd hs ho⟩

end Sys2Proof

/-! A transaction in an environment that meets the contract, from its first STATUS read to its end; from it the statements about
contracted answers (R53 to R55). -/

namespace Sys2Proof.Machine

/-- Reads leave the transfers, so the draw of the last one, as they are (R41). -/
theorem draw_of_read {draws : Nat → TransferDraw} {s t : State} {e : Event}
    (he : (∃ v, e = .rStatus v) ∨ ∃ v, e = .rIn v) (ht : t.history = s.history ++ [e]) : t.draw draws = s.draw draws := by
  rcases he with ⟨_ | v, rfl⟩ | ⟨v, rfl⟩ <;> simp [State.draw, ht, wireOf_append]

section Contract

variable {draws : Nat → TransferDraw} {s : State} {v : XWord}

/-- In POLL the last transfer is this transaction's, and a contracted answer shows done exactly if its draw says so. -/
theorem poll_contract (hInv : Inv s) (henv : s.envIndeterminate = false) (hc : s.meetsContract draws) (hs : s.fsm = .poll)
    (ha : s.input.answer = some (.ok v)) :
    (wireOf s.history).started.getLast? = some ⟨s.bitLen.toNat, some s.cmdWord⟩ ∧
      doneFlag (statusValue v) = (s.draw draws).over s.pollCnt.toNat := by
  obtain ⟨hist, vs, tl, hreads⟩ := inv_readsAre hInv (.inl hs)
  have hdone := (hc henv).1 v hs ha
  rw [wireOf_readsAre hreads] at hdone ⊢
  exact ⟨List.getLast?_concat, (hreads.polling hs).1 ▸ hdone⟩

/-- In RD_IN a contracted answer holds the bits received in this transaction's transfer. -/
theorem rdIn_contract (hInv : Inv s) (henv : s.envIndeterminate = false) (hc : s.meetsContract draws) (hs : s.fsm = .rdIn)
    (ha : s.input.answer = some (.ok v)) : inboundContract s.bitLen.toNat (s.draw draws).received v := by
  obtain ⟨hist, vs, tl, hreads⟩ := inv_readsAre hInv (.inr (.inl hs))
  have hin := (hc henv).2 v ⟨s.bitLen.toNat, some s.cmdWord⟩ hs ha
  rw [wireOf_readsAre hreads] at hin
  exact hin (by simp [hs]) List.getLast?_concat

/-- A STATUS read leads to RD_IN exactly if it shows done set; else the block polls on or times out (R81). -/
theorem step_poll_fsm_iff {t : State} (hs : s.fsm = .poll) (hx : s.input.answersOk v) (h : step s = .next t) :
    t.fsm = .rdIn ↔ doneFlag (statusValue v) = true := by
  by_cases hd : doneFlag (statusValue v) = true
  · cases h.symm.trans (step_poll_done hs hx hd)
    simp [hd]
  · have hd' : doneFlag (statusValue v) = false := by simpa using hd
    by_cases hl : s.pollCnt + 1 = s.cfg.pollLimit
    · cases h.symm.trans (step_poll_limit hs hx hd' hl)
      simp [hd']
    · cases h.symm.trans (step_poll_again hs hx hd' hl)
      simp [hd', hs]

end Contract

/-! ## The transaction after its CTRL write, in a contracted environment -/

/-- No reset, every access answered Ok, every answer as contracted. -/
def State.contracted (draws : Nat → TransferDraw) (s : State) : Prop := s.answeredOk ∧ s.meetsContract draws

/-- `s` serves request `r` with a transfer of length `l` and draw `d`, and the environment keeps to the contract for `n` more
steps. -/
structure Serves (draws : Nat → TransferDraw) (r : Request) (l : Nat) (d : TransferDraw) (n : Nat) (s : State) :
    Prop where
  inv : Inv s
  determinate : s.envIndeterminate = false
  latched : s.latched = r
  len : s.bitLen.toNat = l
  draw : s.draw draws = d
  contracted : untilIdle (State.contracted draws) n s

/-- A draw whose end is not below `m` shows no end before. -/
theorem over_eq_false {d : TransferDraw} {m n : Nat} (hk : ∀ k, d.clearReads = some k → m ≤ k) (hn : n < m) :
    d.over n = false := by
  cases hc : d.clearReads with
  | none => simp [TransferDraw.over, hc]
  | some k =>
    have hmk := hk k hc
    simp only [TransferDraw.over, hc, decide_eq_false_iff_not]
    omega

section Serves

variable {draws : Nat → TransferDraw} {s t : State} {r : Request} {l n : Nat} {d : TransferDraw}

theorem Serves.answersOk (h : Serves draws r l d (n + 1) s) (ha : s.fsm.accessing = true) : ∃ v, s.input.answersOk v := by
  obtain ⟨⟨hr, hok⟩, -⟩ := h.contracted.1
  obtain ⟨v, hv⟩ := hok ha
  exact ⟨v, hr, hv⟩

/-- A step that logs a read and stays busy leaves the transaction served. -/
theorem Serves.after_read {e : Event} (h : Serves draws r l d (n + 1) s) (hst : step s = .next t) (hb : t.fsm ≠ .idle)
    (he : (∃ v, e = .rStatus v) ∨ ∃ v, e = .rIn v) (hh : t.history = s.history ++ [e])
    (henv : t.envIndeterminate = s.envIndeterminate) (hl : t.latched = s.latched) (hlen : t.bitLen = s.bitLen) :
    Serves draws r l d n t where
  inv := invariantKeptByEveryStep s t h.inv hst
  determinate := henv.trans h.determinate
  latched := hl.trans h.latched
  len := hlen ▸ h.len
  draw := (draw_of_read he hh).trans h.draw
  contracted := untilIdle_tail h.contracted hst hb

/-- The poll on which the draw shows the end. -/
theorem Serves.step_to_rdIn (h : Serves draws r l d (n + 1) s) (hs : s.fsm = .poll) (ho : d.over s.pollCnt.toNat = true) :
    ∃ t, step s = .next t ∧ t.fsm = .rdIn ∧ Serves draws r l d n t := by
  obtain ⟨v, hv⟩ := h.answersOk (by rw [hs]; rfl)
  have hd := (poll_contract h.inv h.determinate h.contracted.1.2 hs hv.2).2
  rw [h.draw, ho] at hd
  have hst := step_poll_done hs hv hd
  exact ⟨_, hst, rfl, h.after_read hst (by simp) (.inl ⟨_, rfl⟩) rfl rfl rfl rfl⟩

/-- A poll before it, below the limit. -/
theorem Serves.step_again (h : Serves draws r l d (n + 1) s) (hs : s.fsm = .poll) (ho : d.over s.pollCnt.toNat = false)
    (hl : s.pollCnt.toNat + 1 < s.cfg.pollLimit.toNat) : ∃ t, step s = .next t ∧ t.fsm = .poll ∧
      t.pollCnt.toNat = s.pollCnt.toNat + 1 ∧ t.cfg = s.cfg ∧ Serves draws r l d n t := by
  obtain ⟨v, hv⟩ := h.answersOk (by rw [hs]; rfl)
  have hd := (poll_contract h.inv h.determinate h.contracted.1.2 hs hv.2).2
  rw [h.draw, ho] at hd
  have hn := pollCnt_succ_toNat h.inv.pollBelow
  have hst := step_poll_again hs hv hd (fun e => by rw [← e] at hl; omega)
  exact ⟨_, hst, hs, hn, rfl, h.after_read hst (by simp [hs]) (.inl ⟨_, rfl⟩) rfl rfl rfl rfl⟩

/-- A poll before it, the last allowed one. -/
theorem Serves.step_limit (h : Serves draws r l d (n + 1) s) (hs : s.fsm = .poll) (ho : d.over s.pollCnt.toNat = false)
    (hl : s.pollCnt.toNat + 1 = s.cfg.pollLimit.toNat) : ∃ t, step s = .next t ∧ t.fsm = .idle ∧ t.resValid = true ∧
      t.resStatus = .deviceTimeout ∧ t.resValue = 0 ∧ t.envIndeterminate = true := by
  obtain ⟨v, hv⟩ := h.answersOk (by rw [hs]; rfl)
  have hd := (poll_contract h.inv h.determinate h.contracted.1.2 hs hv.2).2
  rw [h.draw, ho] at hd
  have hn := pollCnt_succ_toNat h.inv.pollBelow
  have hst := step_poll_limit hs hv hd (BitVec.eq_of_toNat_eq (hn.trans hl))
  exact ⟨_, hst, rfl, rfl, rfl, rfl, by simp⟩

/-- The IN read puts the bits received into `resp_word`. -/
theorem Serves.step_to_extract (h : Serves draws r l d (n + 1) s) (hs : s.fsm = .rdIn) :
    ∃ t, step s = .next t ∧ t.fsm = .extract ∧ inboundContract l d.received t.respWord ∧ Serves draws r l d n t := by
  obtain ⟨v, hv⟩ := h.answersOk (by rw [hs]; rfl)
  have hin := rdIn_contract h.inv h.determinate h.contracted.1.2 hs hv.2
  rw [h.len, h.draw] at hin
  have hst := step_rdIn_ok hs hv
  exact ⟨_, hst, rfl, hin, h.after_read hst (by simp) (.inr ⟨_, rfl⟩) rfl rfl rfl rfl⟩

/-- EXTRACT completes with the number they spell. -/
theorem Serves.step_completes (h : Serves draws r l d (n + 1) s) (hs : s.fsm = .extract)
    (hin : inboundContract l d.received s.respWord) :
    ∃ t, step s = .next t ∧ t.fsm = .idle ∧ t.resValid = true ∧ t.resStatus = .ok ∧
      t.envIndeterminate = false ∧ inboundContract l d.received t.respWord ∧
      (r.op ≠ 0xD → t.resValue.toNat = receivedValue r.op d.received) ∧
      (r.op = 0xD → t.resValue.toNat % 2 ^ l = bitsValue d.received) := by
  have hop : s.reqOp = r.op := congrArg Request.op h.latched
  obtain ⟨res, hend, hread, htransfer⟩ := readResultIsLastBitsReceived.2 s d.received h.inv hs h.contracted.1.1.1
    (h.len ▸ hin)
  rw [hop] at hread htransfer
  rw [h.len] at htransfer
  exact ⟨_, hend, rfl, rfl, rfl, by simpa using h.determinate, hin, hread, htransfer⟩

/-- From a poll that precedes the end by `j` reads, below the limit, the block reads IN after `j + 1` steps. -/
theorem Serves.run_to_rdIn {j : Nat} (h : Serves draws r l d (j + 1 + n) s) (hs : s.fsm = .poll)
    (hk : d.clearReads = some (s.pollCnt.toNat + j)) (hl : s.pollCnt.toNat + j < s.cfg.pollLimit.toNat) :
    ∃ t, Sys2Proof.core.run (j + 1) s = .next t ∧ t.fsm = .rdIn ∧ Serves draws r l d n t := by
  induction j generalizing s with
  | zero =>
    rw [Nat.add_comm] at h
    obtain ⟨t, hst, ht, hserves⟩ := h.step_to_rdIn hs (by simp [TransferDraw.over, hk])
    exact ⟨t, by rw [run_succ hst, run_zero], ht, hserves⟩
  | succ j ih =>
    rw [Nat.add_right_comm] at h
    obtain ⟨t, hst, ht, hn, hcfg, hserves⟩ := h.step_again hs (by simp [TransferDraw.over, hk]) (by omega)
    obtain ⟨u, hrun, hu⟩ := ih hserves ht (by rw [hn, hk]; congr 1; omega) (by rw [hn, hcfg]; omega)
    exact ⟨u, by rw [run_succ hst, hrun], hu⟩

/-- If the draw's end is not below the limit, the block times out after the polls it has left. -/
theorem Serves.run_timeout {j : Nat} (h : Serves draws r l d (j + 1 + n) s) (hs : s.fsm = .poll)
    (hk : ∀ k, d.clearReads = some k → s.cfg.pollLimit.toNat ≤ k)
    (hl : s.pollCnt.toNat + (j + 1) = s.cfg.pollLimit.toNat) :
    ∃ t, Sys2Proof.core.run (j + 1) s = .next t ∧ t.fsm = .idle ∧ t.resValid = true ∧
      t.resStatus = .deviceTimeout ∧ t.resValue = 0 ∧ t.envIndeterminate = true := by
  induction j generalizing s with
  | zero =>
    rw [Nat.add_comm] at h
    obtain ⟨t, hst, ht⟩ := h.step_limit hs (over_eq_false hk (by omega)) (by omega)
    exact ⟨t, by rw [run_succ hst, run_zero], ht⟩
  | succ j ih =>
    rw [Nat.add_right_comm] at h
    obtain ⟨t, hst, ht, hn, hcfg, hserves⟩ := h.step_again hs (over_eq_false hk (by omega)) (by omega)
    obtain ⟨u, hrun, hu⟩ := ih hserves ht (by rw [hcfg]; exact hk) (by rw [hn, hcfg]; omega)
    exact ⟨u, by rw [run_succ hst, hrun], hu⟩

end Serves

/-! ## From IDLE to the first STATUS read -/

/-- The command registers hold R68's answer without loss (R22, R23). -/
theorem refEncode_fits {p : Params} {r : Request} {w l : Nat} (h : refEncode p r = some (w, l)) :
    (BitVec.ofNat 40 w).toNat = w ∧ (BitVec.ofNat 8 l).toNat = l ∧ l ≤ W := by
  rw [refEncode_eq_frame_decodeRequest] at h
  obtain ⟨f, hf, hwl⟩ := Option.map_eq_some_iff.1 h
  cases hwl
  exact ⟨by simp, by simp, (frame_len_legal hf).2⟩

@[simp] theorem polled_cfg (s : State) (r : Request) (w l : Nat) (xs : List EnvInput) (vs : List RegWord) :
    (s.polled r w l xs vs).cfg = s.cfg := rfl
@[simp] theorem polled_pollCnt (s : State) (r : Request) (w l : Nat) (xs : List EnvInput) (vs : List RegWord) :
    (s.polled r w l xs vs).pollCnt = BitVec.ofNat 32 vs.length := rfl

section Opening

variable {draws : Nat → TransferDraw} {s : State} {r : Request} {w l n : Nat}

/-- After its two writes a transaction has the invariant, whatever state it began in. -/
theorem inv_polled (hcfg : s.cfg.wf) (henc : refEncode s.cfg r = some (w, l)) (xs : List EnvInput) :
    Inv (s.polled r w l xs []) := by
  obtain ⟨hw, hl, hlW⟩ := refEncode_fits henc
  exact {
    cfgLegal := hcfg
    fsmLegal := Fsm.noConfusion
    pollBelow := pollLimit_pos hcfg
    lenBelow := hl.le.trans hlW
    encoded := fun _ => henc.trans (congrArg some (Prod.ext hw.symm hl.symm))
    busyUnanswered := fun _ => rfl
    clearUntilValid := fun _ => ⟨rfl, rfl⟩
    errorValueZero := fun _ => rfl
    accesses := ⟨s.history, [], rfl, rfl, by simp⟩ }

theorem serves_polled (hi : s.fsm = .idle) (henv : s.envIndeterminate = false) (hcfg : s.cfg.wf)
    (hq : s.input.request = some r) (henc : refEncode s.cfg r = some (w, l))
    (hu : untilIdle (State.contracted draws) (n + 4) s) : ∃ xs, Sys2Proof.core.run 4 s = .next (s.polled r w l xs []) ∧
      Serves draws r l (draws ((wireOf s.history).started.length + 1)) n (s.polled r w l xs []) := by
  have h₀ := step_idle_offered hi hu.1.1.1 hq
  have hu₁ := untilIdle_tail hu h₀ (by simp)
  have h₁ := step_accepted hu₁.1.1.1 henc
  have hu₂ := untilIdle_tail hu₁ h₁ Fsm.noConfusion
  obtain ⟨a₂, ha₂⟩ := hu₂.1.1.2 rfl
  have h₂ := step_opened ⟨hu₂.1.1.1, ha₂⟩
  have hu₃ := untilIdle_tail hu₂ h₂ Fsm.noConfusion
  obtain ⟨a₃, ha₃⟩ := hu₃.1.1.2 rfl
  have h₃ := step_outWritten ⟨hu₃.1.1.1, ha₃⟩
  refine ⟨_, by rw [run_succ h₀, run_succ h₁, run_succ h₂, run_succ h₃, run_zero], ?_⟩
  exact {
    inv := inv_polled hcfg henc _
    determinate := henv
    latched := rfl
    len := (refEncode_fits henc).2.1
    draw := by simp [State.draw, State.polled, statusReads, wireOf_append]
    contracted := untilIdle_tail hu₃ h₃ Fsm.noConfusion }

end Opening

end Sys2Proof.Machine

namespace Sys2Proof

open Machine

/-- Settles O59: what the contract says of the last transfer, which the invariant names. -/
theorem contractedAnswersAreThisTransfers : Obligations.ContractedAnswersAreThisTransfers := by
  refine ⟨fun draws s henv hdet => by simp [henv] at hdet, fun draws s t v hInv henv hc hr ha h => ⟨fun hs => ?_, fun hs => ?_⟩⟩
  · obtain ⟨hlast, hdone⟩ := poll_contract hInv henv hc hs ha
    exact ⟨hlast, by rw [step_poll_fsm_iff hs ⟨hr, ha⟩ h, hdone]⟩
  · have hin := rdIn_contract hInv henv hc hs ha
    have ht := Host.Outcome.next.inj (h.symm.trans (step_rdIn_ok hs ⟨hr, ha⟩))
    have hdraw : t.draw draws = s.draw draws := draw_of_read (.inr ⟨some v, rfl⟩) (congrArg State.history ht)
    refine ⟨congrArg State.respWord ht, hdraw, ?_⟩
    rw [hdraw, ht]
    exact hin

/-- Settles O60: the four steps to the first STATUS read, the polls as the draw says, and the end. -/
theorem contractedTransaction : Obligations.ContractedTransaction := by
  intro draws s r w l hi henv hcfg hq henc hu d
  have hpos := pollLimit_pos hcfg
  obtain ⟨xs, hrun, hserves⟩ := serves_polled (n := s.cfg.pollLimit.toNat + 2) hi henv hcfg hq henc
    (by rwa [show 6 + s.cfg.pollLimit.toNat = s.cfg.pollLimit.toNat + 2 + 4 by omega] at hu)
  refine ⟨fun k hk hkl => ?_, fun hk => ?_⟩
  · obtain ⟨m, hm⟩ := Nat.exists_eq_add_of_lt hkl
    rw [show s.cfg.pollLimit.toNat + 2 = k + 1 + (m + 2) by omega] at hserves
    obtain ⟨u, hpolls, hu, hread⟩ := hserves.run_to_rdIn rfl (by simpa using hk) (by simpa using hkl)
    obtain ⟨v, hin, hv, hbits, hreceived⟩ := hread.step_to_extract hu
    obtain ⟨t, hend, ht⟩ := hreceived.step_completes hv hbits
    exact ⟨t, by rw [show 7 + k = 4 + (k + 1 + 2) by omega, run_add hrun, run_add hpolls, run_succ hin, run_succ hend,
      run_zero], ht⟩
  · obtain ⟨j, hj⟩ := Nat.exists_eq_add_of_lt hpos
    rw [Nat.zero_add] at hj
    rw [hj] at hserves
    obtain ⟨t, hend, ht⟩ := hserves.run_timeout rfl hk (by simpa using hj.symm)
    exact ⟨t, by rw [hj, run_add hrun, hend], ht⟩

end Sys2Proof
